-- ==== Sys2Proof/Word.lean ====
section
/-! DEFINITION. The word types of the core (00_scope.md rules R3 and R6): nibbles of data memory and of every data
register, bytes of external memory, 16-bit program words and addresses, 12-bit data addresses. -/

namespace Sys2Proof

/-- 4 bits: "the unit of data memory and of every data register" (R14). -/
abbrev Nibble := BitVec 4

/-- 8 bits: the unit of external memory (R14, R76). -/
abbrev Byte := BitVec 8

/-- 16 bits: a program-memory word, a program address, a call-stack level (R14, R71, R33). -/
abbrev Word := BitVec 16

/-- A 12-bit data-memory address, bank in bits 11..8 and offset in bits 7..0 (R75). -/
abbrev DataAddr := BitVec 12

end Sys2Proof
end

