-- ==== Sys2Proof/Config.lean ====
section
/-! DEFINITION. What a device or an implementation fixes (the parameters of 00_scope.md rule R6, decisions D1 to D34) and
the free values, which the spec leaves open. The parameters are plain data and are held in `State.params`, so that a
statement about every state is a statement about every choice of them (log 2). The free values and the device model are
uninterpreted constants. -/

namespace Sys2Proof

/-- `CORE` (R2, D1): which of the two cores. -/
inductive CoreKind where
  | nX250
  | nX300
  deriving DecidableEq, Repr

/-- `STACK_WRAP` (R35, D13, D14): what a save past the last level or a restore below the first does. -/
inductive StackWrap where
  | fault
  | wrap
  deriving DecidableEq, Repr

/-- `PAGE_BITS_AT_FFF` (R431, D18): the page of JMP cadr12 and CAL cadr12 standing at the last word of a page. -/
inductive PageBits where
  | refuse
  | own
  | next
  deriving DecidableEq, Repr

/-- `ADCJ_THRESHOLD` (R265, D19). -/
inductive AdcjThreshold where
  | ge
  | gt
  deriving DecidableEq, Repr

/-- `SBCJ_ADJUST` (R270, D20). -/
inductive SbcjAdjust where
  | borrow
  | resultIsF
  deriving DecidableEq, Repr

/-- `BYTE_XFER_WRAP` (R382, D21): the address after offset 0FFH in a two-nibble transfer. -/
inductive ByteXferWrap where
  | fault
  | wrap8
  | carry12
  deriving DecidableEq, Repr

/-- `HALT_NOP_CHECK` (R484, D30): what HALT does when the word after it is not NOP. -/
inductive HaltNopCheck where
  | refuse
  | ignore
  deriving DecidableEq, Repr

/-- A set of consecutive addresses, both ends included; a list of them is an implemented set (log 33). -/
structure AddrRange where
  lo : Nat
  hi : Nat
  deriving DecidableEq, Repr

/-- The two classes of interrupt (R502). -/
inductive IrqClass where
  | maskable
  | nonMaskable
  deriving DecidableEq, Repr

/-- One source of the `IRQ` table (R503): its name (a number), the address of its handler, its class, its priority (the
larger is served first, log 14) and whether accepting it clears its request (`acknowledge`, log 14). -/
structure IrqSource where
  name : Nat
  vector : Word
  cls : IrqClass
  priority : Nat
  ackClears : Bool
  deriving DecidableEq, Repr

/-- The parameters of R6, each under the spec's name for it. -/
structure Params where
  /-- `CORE` (D1) -/
  core : CoreKind
  /-- `PM_WORDS` (D3) -/
  pmWords : Nat
  /-- `RAM_IMPL` (D4) -/
  ramImpl : List AddrRange
  /-- `PERIPH` (D5): the addresses of 000H..0F1H for which there is a device model -/
  periph : List AddrRange
  /-- `XM_PRESENT` (D6) -/
  xmPresent : Bool
  /-- `XM_IMPL` (D6) -/
  xmImpl : List AddrRange
  /-- `HAS_MELODY` (D7) -/
  hasMelody : Bool
  /-- `IRQ` (D8) -/
  irq : List IrqSource
  /-- `STACK_WRAP` (D13, D14) -/
  stackWrap : StackWrap
  /-- `PAGE_BITS_AT_FFF` (D18) -/
  pageBitsAtFff : PageBits
  /-- `ADCJ_THRESHOLD` (D19) -/
  adcjThreshold : AdcjThreshold
  /-- `SBCJ_ADJUST` (D20) -/
  sbcjAdjust : SbcjAdjust
  /-- `BYTE_XFER_WRAP` (D21) -/
  byteXferWrap : ByteXferWrap
  /-- `NMI_CLEARS_MIE` (D11) -/
  nmiClearsMie : Bool
  /-- `HALT_WAKE_IGNORES_MIE` (D12) -/
  haltWakeIgnoresMie : Bool
  /-- `HALT_NOP_CHECK` (D30) -/
  haltNopCheck : HaltNopCheck
  deriving DecidableEq, Repr

/-- The defaults of R6. DESIGN CHOICE (log 1): `CORE`, which has no default, is the nX-4/300, whose instruction set holds
the other's. -/
def Params.defaults : Params where
  core := .nX300
  pmWords := 65536
  ramImpl := [⟨0x100, 0xFFF⟩]
  periph := []
  xmPresent := true
  xmImpl := [⟨0x0000, 0xFFFF⟩]
  hasMelody := false
  irq := []
  stackWrap := .fault
  pageBitsAtFff := .refuse
  adcjThreshold := .ge
  sbcjAdjust := .borrow
  byteXferWrap := .fault
  nmiClearsMie := true
  haltWakeIgnoresMie := false
  haltNopCheck := .refuse

/-- FREE VALUE (log 11): the n-th drawn nibble, "any value" of 93_implementation_defined.md. -/
opaque Config.freeNibble : Nat → Nibble

/-- FREE VALUE (log 11): the n-th drawn bit. -/
opaque Config.freeBit : Nat → Bool

/-- UNINTERPRETED (log 12): what the peripheral SFR at an address returns in a device state (`PERIPH`, D5). -/
opaque Config.periphRead : Nat → DataAddr → Nibble

/-- UNINTERPRETED (log 12): the device state after a read of that address. -/
opaque Config.periphAfterRead : Nat → DataAddr → Nat

/-- UNINTERPRETED (log 12): the device state after a write of a nibble to that address. -/
opaque Config.periphAfterWrite : Nat → DataAddr → Nibble → Nat

end Sys2Proof
end

