-- ==== Sys2Proof/Syntax.lean ====
section
/-! DEFINITION. The instructions. One constructor per numbered instruction rule of 40_transfer.md to 48_control.md, its
operands as the manual writes them; every row of opcode_table.json is one constructor with one operand form (log 30). The
71 second spellings of 30_encoding.md rule R143 are constructors of their own and decode to their primary instruction
(log 28). -/

namespace Sys2Proof

/-- The bank register of an indirect operand: `C:` or nothing is CBR, `E:` is EBR (R87 to R89). -/
inductive Bank where
  | cbr
  | ebr
  deriving DecidableEq, Repr

/-- The pointer pair of an indirect operand (R22). -/
inductive Pair where
  | hl
  | xy
  deriving DecidableEq, Repr

/-- `[HL]`, `[XY]`, `E:[HL]`, `E:[XY]`: a register-indirect operand without post-increment (R87 to R89). -/
structure Ptr where
  bank : Bank
  pair : Pair
  deriving DecidableEq, Repr

/-- The eight register-indirect operands: a pointer, and whether it is a `+` operand (R90, R91). -/
structure Ind where
  ptr : Ptr
  post : Bool
  deriving DecidableEq, Repr

/-- The ten operand forms of R260 and R300: sfr, cur and the eight indirect forms. -/
inductive SfrObj where
  | sfr (r : BitVec 8)
  | cur (r : BitVec 8)
  | ind (o : Ind)
  deriving DecidableEq, Repr

/-- The nine operand forms of the immediate, mask, bit and base instructions: cur and the eight indirect forms (R260). -/
inductive CurObj where
  | cur (r : BitVec 8)
  | ind (o : Ind)
  deriving DecidableEq, Repr

/-- The nine operand forms of MOV obj,A and MOV A,obj: direct and the eight indirect forms (R201, R202). -/
inductive DirObj where
  | direct (r : BitVec 12)
  | ind (o : Ind)
  deriving DecidableEq, Repr

/-- The number base n of ADCJ and SBCJ, "an even number from 2 to 16" (R139, R265). -/
inductive Base where
  | b2 | b4 | b6 | b8 | b10 | b12 | b14 | b16
  deriving DecidableEq, Repr

/-- The ten registers of MOV reg,#i4 (R470). -/
inductive Reg4 where
  | ebr | cbr | y | x | l | h | ra0 | ra1 | ra2 | ra3
  deriving DecidableEq, Repr

/-- The instruction set. -/
inductive Instr where
  -- transfer, 40_transfer.md
  /-- MOV obj,A (R201) -/
  | movObjA (o : DirObj)
  /-- MOV A,obj (R202) -/
  | movAObj (o : DirObj)
  /-- MOV A,#i4 (R203) -/
  | movAImm (i : Nibble)
  /-- MOV obj,#i4 (R204) -/
  | movObjImm (o : CurObj) (i : Nibble)
  /-- XCH A,obj (R205) -/
  | xch (o : SfrObj)
  -- rotate and increment/decrement, 41_rotate_incdec.md
  /-- ROL obj (R230) -/
  | rol (o : SfrObj)
  /-- ROR obj (R231) -/
  | ror (o : SfrObj)
  /-- INC obj (R232) -/
  | inc (o : SfrObj)
  /-- DEC obj (R233) -/
  | dec (o : SfrObj)
  -- arithmetic, 42_arithmetic.md
  /-- ADD obj,A (R261) -/
  | addA (o : SfrObj)
  /-- ADD obj,#i4 (R262) -/
  | addImm (o : CurObj) (i : Nibble)
  /-- ADC obj,A (R263) -/
  | adc (o : SfrObj)
  /-- ADCD obj,A (R264) -/
  | adcd (o : SfrObj)
  /-- ADCJ obj,n (R265) -/
  | adcj (o : CurObj) (n : Base)
  /-- SUB obj,A (R266) -/
  | subA (o : SfrObj)
  /-- SUB obj,#i4 (R267) -/
  | subImm (o : CurObj) (i : Nibble)
  /-- SBC obj,A (R268) -/
  | sbc (o : SfrObj)
  /-- SBCD obj,A (R269) -/
  | sbcd (o : SfrObj)
  /-- SBCJ obj,n (R270) -/
  | sbcj (o : CurObj) (n : Base)
  -- comparison and logical, 43_compare_logical.md
  /-- CMP obj,A (R301) -/
  | cmpA (o : SfrObj)
  /-- CMP obj,#i4 (R302) -/
  | cmpImm (o : CurObj) (i : Nibble)
  /-- AND obj,A (R303) -/
  | andA (o : SfrObj)
  /-- AND obj,#i4 (R304) -/
  | andImm (o : CurObj) (i : Nibble)
  /-- OR obj,A (R305) -/
  | orA (o : SfrObj)
  /-- OR obj,#i4 (R306) -/
  | orImm (o : CurObj) (i : Nibble)
  /-- XOR obj,A (R307) -/
  | xorA (o : SfrObj)
  /-- XOR obj,#i4 (R308) -/
  | xorImm (o : CurObj) (i : Nibble)
  -- mask and bit, 44_mask_bit.md
  /-- MCLR obj,#m (R331), second spelling of AND obj,#i4 -/
  | mclr (o : CurObj) (m : Nibble)
  /-- MSET obj,#m (R332), second spelling of OR obj,#i4 -/
  | mset (o : CurObj) (m : Nibble)
  /-- MNOT obj,#m (R333), second spelling of XOR obj,#i4 -/
  | mnot (o : CurObj) (m : Nibble)
  /-- MTST obj,A (R334) -/
  | mtstA (o : SfrObj)
  /-- MTST obj,#m (R335) -/
  | mtstImm (o : CurObj) (m : Nibble)
  /-- MMOV obj,#m,A.n (R336), nX-4/300 only -/
  | mmov (p : Ptr) (m : Nibble) (n : BitVec 2)
  /-- BCLR obj.n (R346), second spelling of AND obj,#i4 -/
  | bclr (o : CurObj) (n : BitVec 2)
  /-- BSET obj.n (R347), second spelling of OR obj,#i4 -/
  | bset (o : CurObj) (n : BitVec 2)
  /-- BNOT obj.n (R348), second spelling of XOR obj,#i4 -/
  | bnot (o : CurObj) (n : BitVec 2)
  /-- BTST obj.n (R349), second spelling of MTST obj,#m -/
  | btst (o : CurObj) (n : BitVec 2)
  /-- BMOV obj.n1,A.n2 (R352), second spelling of MMOV, nX-4/300 only; the two bit numbers are independent (R155) -/
  | bmov (p : Ptr) (n1 n2 : BitVec 2)
  -- ROM table reference and external transfer, 45_romtable_external.md
  /-- MOVHB obj,[RA] (R384) -/
  | movhbRA (o : Ind)
  /-- MOVHB obj,cadr16 (R385) -/
  | movhbAbs (o : Ind) (cadr : Word)
  /-- MOVLB obj,[RA] (R386) -/
  | movlbRA (o : Ind)
  /-- MOVLB obj,cadr16 (R387) -/
  | movlbAbs (o : Ind) (cadr : Word)
  /-- MOVXB obj,[RA] (R389) -/
  | movxbLoadRA (o : Ind)
  /-- MOVXB obj,xadr16 (R390) -/
  | movxbLoadAbs (o : Ind) (xadr : Word)
  /-- MOVXB [RA],obj (R391) -/
  | movxbStoreRA (o : Ind)
  /-- MOVXB xadr16,obj (R392) -/
  | movxbStoreAbs (xadr : Word) (o : Ind)
  -- stack and flag, 46_stack_flag.md
  /-- PUSH HL (R410) -/
  | pushHL
  /-- PUSH XY (R411) -/
  | pushXY
  /-- POP HL (R412) -/
  | popHL
  /-- POP XY (R413) -/
  | popXY
  /-- FCLR C (R416) -/
  | fclrC
  /-- FCLR Z (R417) -/
  | fclrZ
  /-- FCLR G (R418) -/
  | fclrG
  /-- FCLR FLAG (R419), nX-4/300 only -/
  | fclrFlag
  /-- FSET C (R420) -/
  | fsetC
  /-- FSET Z (R421) -/
  | fsetZ
  /-- FSET G (R422) -/
  | fsetG
  /-- FSET FLAG (R423), nX-4/300 only -/
  | fsetFlag
  -- branch, conditional branch, call and return, 47_branch_call.md
  /-- JMP cadr12 (R432) -/
  | jmp (cadr : BitVec 12)
  /-- LJMP cadr16 (R433) -/
  | ljmp (cadr : Word)
  /-- SJMP radr8 (R434) -/
  | sjmp (radr : BitVec 8)
  /-- JMP PC+A (R435) -/
  | jmpPcA
  /-- BC radr8 (R438) -/
  | bc (radr : BitVec 8)
  /-- BLT radr8 (R438, R445), second spelling of BC -/
  | blt (radr : BitVec 8)
  /-- BNC radr8 (R439) -/
  | bnc (radr : BitVec 8)
  /-- BGE radr8 (R439, R445), second spelling of BNC -/
  | bge (radr : BitVec 8)
  /-- BZ radr8 (R440) -/
  | bz (radr : BitVec 8)
  /-- BEQ radr8 (R440, R445), second spelling of BZ -/
  | beq (radr : BitVec 8)
  /-- BNZ radr8 (R441) -/
  | bnz (radr : BitVec 8)
  /-- BNE radr8 (R441, R445), second spelling of BNZ -/
  | bne (radr : BitVec 8)
  /-- BLE radr8 (R442) -/
  | ble (radr : BitVec 8)
  /-- BGT radr8 (R443) -/
  | bgt (radr : BitVec 8)
  /-- BNG radr8 (R444) -/
  | bng (radr : BitVec 8)
  /-- CAL cadr12 (R446) -/
  | cal (cadr : BitVec 12)
  /-- LCAL cadr16 (R447) -/
  | lcal (cadr : Word)
  /-- RT (R451) -/
  | rt
  /-- RTI (R452) -/
  | rti
  /-- RTNMI (R455) -/
  | rtnmi
  -- control, 48_control.md
  /-- MOV reg,#i4 (R470) -/
  | movReg (r : Reg4) (i : Nibble)
  /-- INCB HL (R481) -/
  | incbHL
  /-- INCB XY (R481) -/
  | incbXY
  /-- INCW RA (R482) -/
  | incwRA
  /-- MSA cadr16 (R483) -/
  | msa (cadr : Word)
  /-- HALT (R484) -/
  | halt
  /-- NOP (R485) -/
  | nop
  /-- EI (R486) -/
  | ei
  /-- DI (R487) -/
  | di
  deriving DecidableEq, Repr

end Sys2Proof
end

