-- ==== Sys2Proof/WellFormed.lean ====
section
/-! DEFINITION. Which instructions a core has (00_scope.md rule R2) and which parameter values R6 and R503 admit. Every
other bound of an operand is in its type. -/

namespace Sys2Proof

/-- The instructions "Not provided" on the nX-4/250 (R2): MMOV, BMOV, FCLR FLAG, FSET FLAG. -/
def Instr.only300 : Instr → Bool
  | .mmov _ _ _ => true
  | .bmov _ _ _ => true
  | .fclrFlag => true
  | .fsetFlag => true
  | _ => false

/-- An instruction is well formed for a core when the core has it (R2, R142). -/
def WellFormed (core : CoreKind) (i : Instr) : Bool :=
  core == .nX300 || !i.only300

/-- A source of the IRQ table: its vector is a program address in 0001H..00FFH (R503). -/
def IrqSource.wf (s : IrqSource) : Bool :=
  decide (0x0001 ≤ s.vector.toNat) && decide (s.vector.toNat ≤ 0x00FF)

/-- `PM_WORDS` is 1..65536 (R6); names and priorities of the IRQ table are distinct, the priority being "a total order
over the list" (R503). -/
def Params.wf (p : Params) : Bool :=
  decide (1 ≤ p.pmWords) && decide (p.pmWords ≤ 65536) && p.irq.all IrqSource.wf
    && decide (p.irq.map IrqSource.name).Nodup && decide (p.irq.map IrqSource.priority).Nodup

end Sys2Proof
end

