-- ==== Sys2Proof/Decode.lean ====
section
/-! DEFINITION. Decoding and encoding, from 30_encoding.md rules R120 to R143. Decoding is total: every pair of words is an
instruction of the core or a named error. Bit fields are read as numbers, once, here. -/

namespace Sys2Proof

/-- The field of a word from bit `lo` up, `len` bits wide (R8). -/
def bits (w : Word) (lo len : Nat) : Nat := w.toNat / 2 ^ lo % 2 ^ len

/-- A field as a bit vector of its own width. -/
def field (w : Word) (lo len : Nat) : BitVec len := BitVec.ofNat len (bits w lo len)

/-! ### Coded operands -/

/-- The mode field `mm` (R124): mm[1] = 1 selects CBR, mm[0] = 1 selects XY. -/
def Ptr.code (p : Ptr) : Nat :=
  (match p.bank with | .cbr => 2 | .ebr => 0) + (match p.pair with | .xy => 1 | .hl => 0)

/-- The pointer a mode field names (R124). -/
def ptrOf (mm : Nat) : Ptr :=
  match mm with
  | 0 => ⟨.ebr, .hl⟩
  | 1 => ⟨.ebr, .xy⟩
  | 2 => ⟨.cbr, .hl⟩
  | _ => ⟨.cbr, .xy⟩

/-- The post-increment bit `p` (R124). -/
def postCode (post : Bool) : Nat := if post then 1 else 0

/-- The number base: n = 16 has the code 0, every other n the code n / 2 (R139). -/
def Base.value : Base → Nat
  | .b2 => 2 | .b4 => 4 | .b6 => 6 | .b8 => 8 | .b10 => 10 | .b12 => 12 | .b14 => 14 | .b16 => 16

/-- The code nnn of a base (R139). -/
def Base.code (n : Base) : Nat := n.value / 2 % 8

/-- The base a code nnn names (R139). -/
def baseOf (nnn : Nat) : Base :=
  match nnn with
  | 1 => .b2
  | 2 => .b4
  | 3 => .b6
  | 4 => .b8
  | 5 => .b10
  | 6 => .b12
  | 7 => .b14
  | _ => .b16

/-- The one-hot code of a bit number, for BSET, BNOT, BTST and the data bit of BMOV (R140). -/
def bitCode (n : BitVec 2) : Nibble := 1#4 <<< n.toNat

/-- The one-cold code of a bit number, for BCLR (R140). -/
def clearCode (n : BitVec 2) : Nibble := ~~~(bitCode n)

/-! ### Length and second spellings -/

/-- How many words an instruction has (R120, R121). -/
def Instr.words : Instr → Nat
  | .ljmp _ => 2
  | .lcal _ => 2
  | .msa _ => 2
  | .movhbAbs _ _ => 2
  | .movlbAbs _ _ => 2
  | .movxbLoadAbs _ _ => 2
  | .movxbStoreAbs _ _ => 2
  | _ => 1

/-- Machine cycles (R560); informative, nothing depends on them (D33, log 26). -/
def Instr.cycles : Instr → Nat
  | .pushHL | .pushXY | .popHL | .popXY => 2
  | .movhbRA _ | .movlbRA _ | .movxbLoadRA _ => 2
  | .movxbStoreRA _ => 3
  | .ljmp _ | .lcal _ => 2
  | .movhbAbs _ _ | .movlbAbs _ _ | .movxbLoadAbs _ _ | .movxbStoreAbs _ _ | .msa _ => 3
  | _ => 1

/-- R121: the first words of the two-word instructions, by bit pattern. -/
def isTwoWord (w : Word) : Bool :=
  w == 0x0014#16 || w == 0x0015#16 || w == 0x0016#16
    || (bits w 6 10 == 0b0000001100 && (bits w 0 3 == 4 || bits w 0 3 == 5))
    || (bits w 6 10 == 0b0000001111 && bits w 1 2 == 0)

/-- The primary instruction of a second spelling; every other instruction is its own (R143). -/
def Instr.primary : Instr → Instr
  | .mclr o m => .andImm o m
  | .mset o m => .orImm o m
  | .mnot o m => .xorImm o m
  | .bclr o n => .andImm o (clearCode n)
  | .bset o n => .orImm o (bitCode n)
  | .bnot o n => .xorImm o (bitCode n)
  | .btst o n => .mtstImm o (bitCode n)
  | .bmov p n1 n2 => .mmov p (bitCode n1) n2
  | .blt d => .bc d
  | .bge d => .bnc d
  | .beq d => .bz d
  | .bne d => .bnz d
  | i => i

/-! ### Decoding -/

/-- Why a pair of words is no instruction of the core. -/
inductive DecodeError where
  /-- one of the 230 first words with no instruction on either core (R142) -/
  | unassigned (w : Word)
  /-- a word of an nX-4/300 instruction, on the nX-4/250 (R2, R142) -/
  | notProvided (w : Word)
  deriving DecidableEq, Repr

/-- Format OP8 (R126), by the field oooo. -/
def decodeOp8 (oooo : Nat) (o : SfrObj) : Option Instr :=
  match oooo with
  | 0 => some (.inc o)
  | 1 => some (.dec o)
  | 2 => some (.rol o)
  | 3 => some (.ror o)
  | 4 => some (.addA o)
  | 5 => some (.adc o)
  | 6 => some (.adcd o)
  | 7 => some (.subA o)
  | 8 => some (.sbc o)
  | 9 => some (.sbcd o)
  | 10 => some (.cmpA o)
  | 11 => some (.andA o)
  | 12 => some (.orA o)
  | 13 => some (.xorA o)
  | 14 => some (.xch o)
  | 15 => some (.mtstA o)
  | _ => none

/-- Format IMM8 (R127), by the field tttt. -/
def decodeImm8 (tttt : Nat) (o : CurObj) (i : Nibble) : Option Instr :=
  match tttt with
  | 4 => some (.movObjImm o i)
  | 5 => some (.andImm o i)
  | 6 => some (.orImm o i)
  | 7 => some (.xorImm o i)
  | 8 => some (.addImm o i)
  | 9 => some (.subImm o i)
  | 10 => some (.cmpImm o i)
  | 11 => some (.mtstImm o i)
  | _ => none

/-- Format BR8 (R129), by cc and s; the displacement is bit 8 and bits 6..0. -/
def decodeBr8 (cc s : Nat) (d : BitVec 8) : Option Instr :=
  match cc, s with
  | 0, 0 => some (.bng d)
  | 0, 1 => some (.sjmp d)
  | 1, 0 => some (.bc d)
  | 1, 1 => some (.bnc d)
  | 2, 0 => some (.bz d)
  | 2, 1 => some (.bnz d)
  | 3, 0 => some (.ble d)
  | 3, 1 => some (.bgt d)
  | _, _ => none

/-- Formats J8 and INDJ (R130, R133), by the bit b. -/
def decodeJ (b : Nat) (o : CurObj) (n : Base) : Option Instr :=
  match b with
  | 0 => some (.adcj o n)
  | 1 => some (.sbcj o n)
  | _ => none

/-- Format IND (R131), by the fields ggg and ooo; the second word is the address of the two-word rows. -/
def decodeInd (ggg ooo : Nat) (o : Ind) (second : Word) : Option Instr :=
  match ggg, ooo with
  | 3, 0 => some (.movAObj (.ind o))
  | 3, 1 => some (.xch (.ind o))
  | 3, 2 => some (.movhbRA o)
  | 3, 3 => some (.movlbRA o)
  | 3, 4 => some (.movhbAbs o second)
  | 3, 5 => some (.movlbAbs o second)
  | 3, 6 => some (.movxbLoadRA o)
  | 3, 7 => some (.movxbStoreRA o)
  | 4, 0 => some (.movObjA (.ind o))
  | 4, 1 => some (.andA (.ind o))
  | 4, 2 => some (.orA (.ind o))
  | 4, 3 => some (.xorA (.ind o))
  | 4, 4 => some (.cmpA (.ind o))
  | 4, 5 => some (.mtstA (.ind o))
  | 4, 6 => some (.rol (.ind o))
  | 4, 7 => some (.ror (.ind o))
  | 5, 0 => some (.inc (.ind o))
  | 5, 1 => some (.dec (.ind o))
  | 5, 2 => some (.addA (.ind o))
  | 5, 3 => some (.adc (.ind o))
  | 5, 4 => some (.adcd (.ind o))
  | 5, 5 => some (.subA (.ind o))
  | 5, 6 => some (.sbc (.ind o))
  | 5, 7 => some (.sbcd (.ind o))
  | _, _ => none

/-- Format INDI (R132), by the fields yy and xx. -/
def decodeIndi (yy xx : Nat) (o : CurObj) (i : Nibble) : Option Instr :=
  match yy, xx with
  | 1, 0 => some (.xorImm o i)
  | 1, 1 => some (.orImm o i)
  | 1, 2 => some (.andImm o i)
  | 1, 3 => some (.movObjImm o i)
  | 2, 0 => some (.addImm o i)
  | 2, 1 => some (.subImm o i)
  | 2, 2 => some (.mtstImm o i)
  | 2, 3 => some (.cmpImm o i)
  | _, _ => none

/-- Format RI (R137), by the fields gg (bits 9..8) and rr (bits 5..4). -/
def decodeRi (gg rr : Nat) (i : Nibble) : Option Instr :=
  match gg, rr with
  | 0, 2 => some (.movReg .ebr i)
  | 0, 3 => some (.movReg .cbr i)
  | 1, 0 => some (.movReg .y i)
  | 1, 1 => some (.movReg .x i)
  | 1, 2 => some (.movReg .l i)
  | 1, 3 => some (.movReg .h i)
  | 2, 0 => some (.movReg .ra0 i)
  | 2, 1 => some (.movReg .ra1 i)
  | 2, 2 => some (.movReg .ra2 i)
  | 2, 3 => some (.movReg .ra3 i)
  | _, _ => none

/-- Format MISC (R138), by the low five bits; 000AH and 001BH..001FH are unassigned. -/
def decodeMisc (n : Nat) (second : Word) : Option Instr :=
  match n with
  | 0x00 => some .nop
  | 0x01 => some .halt
  | 0x02 => some .fclrG
  | 0x03 => some .fclrC
  | 0x04 => some .fclrZ
  | 0x05 => some .fclrFlag
  | 0x06 => some .fsetG
  | 0x07 => some .fsetC
  | 0x08 => some .fsetZ
  | 0x09 => some .fsetFlag
  | 0x0B => some .rt
  | 0x0C => some .rti
  | 0x0D => some .rtnmi
  | 0x0E => some .ei
  | 0x0F => some .di
  | 0x10 => some .pushHL
  | 0x11 => some .pushXY
  | 0x12 => some .popHL
  | 0x13 => some .popXY
  | 0x14 => some (.ljmp second)
  | 0x15 => some (.lcal second)
  | 0x16 => some (.msa second)
  | 0x17 => some .jmpPcA
  | 0x18 => some .incbHL
  | 0x19 => some .incbXY
  | 0x1A => some .incwRA
  | _ => none

/-- Format X16 (R135), by the low three bits: bits 2..1 are 00 and bit 0 is the direction. -/
def decodeX16 (low : Nat) (o : Ind) (second : Word) : Option Instr :=
  match low with
  | 0 => some (.movxbLoadAbs o second)
  | 1 => some (.movxbStoreAbs second o)
  | _ => none

/-- The words with bits 15..11 = 00000 and bits 7..6 = 00 (R141): IND, INDJ, RI and MISC. -/
def decodeLow00 (w second : Word) : Option Instr :=
  match bits w 8 3 with
  | 0 => if bits w 5 1 = 1 then decodeRi 0 (bits w 4 2) (field w 0 4) else decodeMisc (bits w 0 5) second
  | 1 => decodeRi 1 (bits w 4 2) (field w 0 4)
  | 2 => decodeRi 2 (bits w 4 2) (field w 0 4)
  | 6 => decodeJ (bits w 3 1) (.ind ⟨ptrOf (bits w 4 2), false⟩) (baseOf (bits w 0 3))
  | 7 => decodeJ (bits w 3 1) (.ind ⟨ptrOf (bits w 4 2), true⟩) (baseOf (bits w 0 3))
  | ggg => decodeInd ggg (bits w 0 3) ⟨ptrOf (bits w 4 2), bits w 3 1 == 1⟩ second

/-- The words with bits 15..11 = 00000 and bits 7..6 = 11 (R141): MMOV, X16, AI; the rest is unassigned. -/
def decodeLow11 (w second : Word) : Option Instr :=
  match bits w 8 3 with
  | 0 | 2 | 4 | 6 => some (.mmov (ptrOf (bits w 4 2)) (field w 0 4) (field w 9 2))
  | 1 => if bits w 4 2 = 0 then some (.movAImm (field w 0 4)) else none
  | 3 => decodeX16 (bits w 0 3) ⟨ptrOf (bits w 4 2), bits w 3 1 == 1⟩ second
  | _ => none

/-- The words with bits 15..12 = 0000 (R141). -/
def decodeLow (w second : Word) : Option Instr :=
  if bits w 11 1 = 1 then
    decodeBr8 (bits w 9 2) (bits w 7 1) (BitVec.ofNat 8 (bits w 8 1 * 128 + bits w 0 7))
  else
    match bits w 6 2 with
    | 0 => decodeLow00 w second
    | 3 => decodeLow11 w second
    | yy => decodeIndi yy (bits w 9 2) (.ind ⟨ptrOf (bits w 4 2), bits w 8 1 == 1⟩) (field w 0 4)

/-- The instruction of a first word, on the core that has all of them, with the word after it for the address of a two-word
instruction (R122, R141). A second spelling is never the answer (R143). -/
def decodeFirst (w second : Word) : Option Instr :=
  match bits w 12 4 with
  | 0 => decodeLow w second
  | 1 => decodeJ (bits w 11 1) (.cur (field w 0 8)) (baseOf (bits w 8 3))
  | 2 => decodeOp8 (bits w 8 4) (.sfr (field w 0 8))
  | 3 => decodeOp8 (bits w 8 4) (.cur (field w 0 8))
  | 12 => some (.movObjA (.direct (field w 0 12)))
  | 13 => some (.movAObj (.direct (field w 0 12)))
  | 14 => some (.jmp (field w 0 12))
  | 15 => some (.cal (field w 0 12))
  | tttt => decodeImm8 tttt (.cur (field w 0 8)) (field w 8 4)

/-- The decoder of a core (R141, R142). -/
def decode (core : CoreKind) (w second : Word) : Except DecodeError Instr :=
  match decodeFirst w second with
  | none => .error (.unassigned w)
  | some i => if WellFormed core i then .ok i else .error (.notProvided w)

/-- What the decoder reads from an instruction whose bits are `w`, the first word lowest; program memory is word-addressed
and has no byte order (R102, R122). The core is the one `Params.defaults` names. -/
def decodeTableWord (nbits w : Nat) : Option Instr :=
  match decode Params.defaults.core (BitVec.ofNat 16 (w % 2 ^ nbits)) (BitVec.ofNat 16 (w % 2 ^ nbits / 65536)) with
  | .ok i => some i
  | .error _ => none

/-! ### Encoding -/

/-- `0000 0ggg 00mm pooo` (R131) -/
def encInd (ggg ooo : Nat) (o : Ind) : Word :=
  BitVec.ofNat 16 (ggg * 256 + o.ptr.code * 16 + postCode o.post * 8 + ooo)

/-- `001b oooo rrrr rrrr` (R126), or the IND word of the indirect forms -/
def encOp8 (oooo ggg ooo : Nat) : SfrObj → Word
  | .sfr r => BitVec.ofNat 16 (0x2000 + oooo * 256 + r.toNat)
  | .cur r => BitVec.ofNat 16 (0x3000 + oooo * 256 + r.toNat)
  | .ind o => encInd ggg ooo o

/-- `tttt iiii rrrr rrrr` (R127), or `0000 0xxp yymm iiii` (R132) for the indirect forms -/
def encImm (tttt xx yy : Nat) (i : Nibble) : CurObj → Word
  | .cur r => BitVec.ofNat 16 (tttt * 4096 + i.toNat * 256 + r.toNat)
  | .ind o => BitVec.ofNat 16 (xx * 512 + postCode o.post * 256 + yy * 64 + o.ptr.code * 16 + i.toNat)

/-- `0001 bnnn rrrr rrrr` (R130), or `0000 011p 00mm bnnn` (R133) for the indirect forms -/
def encJ (b : Nat) (n : Base) : CurObj → Word
  | .cur r => BitVec.ofNat 16 (0x1000 + b * 2048 + n.code * 256 + r.toNat)
  | .ind o => BitVec.ofNat 16 (0x0600 + postCode o.post * 256 + o.ptr.code * 16 + b * 8 + n.code)

/-- `tttt rrrr rrrr rrrr` (R128), or the IND word of the indirect forms -/
def encDir (tttt ggg ooo : Nat) : DirObj → Word
  | .direct r => BitVec.ofNat 16 (tttt * 4096 + r.toNat)
  | .ind o => encInd ggg ooo o

/-- `0000 1cc a7 s a6..a0` (R129) -/
def encBr8 (cc s : Nat) (d : BitVec 8) : Word :=
  BitVec.ofNat 16 (0x0800 + cc * 512 + d.toNat / 128 * 256 + s * 128 + d.toNat % 128)

/-- `0000 0nn0 11mm kkkk` (R134) -/
def encMmov (p : Ptr) (m : Nibble) (n : BitVec 2) : Word :=
  BitVec.ofNat 16 (n.toNat * 512 + 0xC0 + p.code * 16 + m.toNat)

/-- `0000 0011 11mm p00d` (R135) -/
def encX16 (d : Nat) (o : Ind) : Word :=
  BitVec.ofNat 16 (0x03C0 + o.ptr.code * 16 + postCode o.post * 8 + d)

/-- The word of MOV reg,#i4 with a zero immediate (R137, R470) -/
def Reg4.word : Reg4 → Nat
  | .ebr => 0x0020
  | .cbr => 0x0030
  | .y => 0x0100
  | .x => 0x0110
  | .l => 0x0120
  | .h => 0x0130
  | .ra0 => 0x0200
  | .ra1 => 0x0210
  | .ra2 => 0x0220
  | .ra3 => 0x0230

/-- The words of an instruction (R122, R126 to R138). A second spelling has the words of its primary instruction, with the
mask or bit code in the immediate field (R140, R143). -/
def encode : Instr → List Word
  | .movObjA o => [encDir 12 4 0 o]
  | .movAObj o => [encDir 13 3 0 o]
  | .movAImm i => [BitVec.ofNat 16 (0x01C0 + i.toNat)]
  | .movObjImm o i => [encImm 4 3 1 i o]
  | .xch o => [encOp8 14 3 1 o]
  | .rol o => [encOp8 2 4 6 o]
  | .ror o => [encOp8 3 4 7 o]
  | .inc o => [encOp8 0 5 0 o]
  | .dec o => [encOp8 1 5 1 o]
  | .addA o => [encOp8 4 5 2 o]
  | .addImm o i => [encImm 8 0 2 i o]
  | .adc o => [encOp8 5 5 3 o]
  | .adcd o => [encOp8 6 5 4 o]
  | .adcj o n => [encJ 0 n o]
  | .subA o => [encOp8 7 5 5 o]
  | .subImm o i => [encImm 9 1 2 i o]
  | .sbc o => [encOp8 8 5 6 o]
  | .sbcd o => [encOp8 9 5 7 o]
  | .sbcj o n => [encJ 1 n o]
  | .cmpA o => [encOp8 10 4 4 o]
  | .cmpImm o i => [encImm 10 3 2 i o]
  | .andA o => [encOp8 11 4 1 o]
  | .andImm o i => [encImm 5 2 1 i o]
  | .orA o => [encOp8 12 4 2 o]
  | .orImm o i => [encImm 6 1 1 i o]
  | .xorA o => [encOp8 13 4 3 o]
  | .xorImm o i => [encImm 7 0 1 i o]
  | .mclr o m => [encImm 5 2 1 m o]
  | .mset o m => [encImm 6 1 1 m o]
  | .mnot o m => [encImm 7 0 1 m o]
  | .mtstA o => [encOp8 15 4 5 o]
  | .mtstImm o m => [encImm 11 2 2 m o]
  | .mmov p m n => [encMmov p m n]
  | .bclr o n => [encImm 5 2 1 (clearCode n) o]
  | .bset o n => [encImm 6 1 1 (bitCode n) o]
  | .bnot o n => [encImm 7 0 1 (bitCode n) o]
  | .btst o n => [encImm 11 2 2 (bitCode n) o]
  | .bmov p n1 n2 => [encMmov p (bitCode n1) n2]
  | .movhbRA o => [encInd 3 2 o]
  | .movhbAbs o cadr => [encInd 3 4 o, cadr]
  | .movlbRA o => [encInd 3 3 o]
  | .movlbAbs o cadr => [encInd 3 5 o, cadr]
  | .movxbLoadRA o => [encInd 3 6 o]
  | .movxbLoadAbs o xadr => [encX16 0 o, xadr]
  | .movxbStoreRA o => [encInd 3 7 o]
  | .movxbStoreAbs xadr o => [encX16 1 o, xadr]
  | .pushHL => [0x0010]
  | .pushXY => [0x0011]
  | .popHL => [0x0012]
  | .popXY => [0x0013]
  | .fclrC => [0x0003]
  | .fclrZ => [0x0004]
  | .fclrG => [0x0002]
  | .fclrFlag => [0x0005]
  | .fsetC => [0x0007]
  | .fsetZ => [0x0008]
  | .fsetG => [0x0006]
  | .fsetFlag => [0x0009]
  | .jmp cadr => [BitVec.ofNat 16 (0xE000 + cadr.toNat)]
  | .ljmp cadr => [0x0014, cadr]
  | .sjmp d => [encBr8 0 1 d]
  | .jmpPcA => [0x0017]
  | .bc d => [encBr8 1 0 d]
  | .blt d => [encBr8 1 0 d]
  | .bnc d => [encBr8 1 1 d]
  | .bge d => [encBr8 1 1 d]
  | .bz d => [encBr8 2 0 d]
  | .beq d => [encBr8 2 0 d]
  | .bnz d => [encBr8 2 1 d]
  | .bne d => [encBr8 2 1 d]
  | .ble d => [encBr8 3 0 d]
  | .bgt d => [encBr8 3 1 d]
  | .bng d => [encBr8 0 0 d]
  | .cal cadr => [BitVec.ofNat 16 (0xF000 + cadr.toNat)]
  | .lcal cadr => [0x0015, cadr]
  | .rt => [0x000B]
  | .rti => [0x000C]
  | .rtnmi => [0x000D]
  | .movReg r i => [BitVec.ofNat 16 (r.word + i.toNat)]
  | .incbHL => [0x0018]
  | .incbXY => [0x0019]
  | .incwRA => [0x001A]
  | .msa cadr => [0x0016, cadr]
  | .halt => [0x0001]
  | .nop => [0x0000]
  | .ei => [0x000E]
  | .di => [0x000F]

end Sys2Proof
end

