-- ==== Sys2Proof/Machine/State.lean ====
section
/-! DEFINITION. The state of the machine (10_state.md rule R20), with program and external memory (20_memory.md), the
outside's inputs (60_exceptions.md rules R503, R505; 70_reset_and_hazards.md rule R540), the faults of 60_exceptions.md
rule R501, and the state after reset (70_reset_and_hazards.md rule R542). -/

namespace Sys2Proof.Machine

/-- A sparse memory: address and content pairs, addresses strictly rising, no entry equal to the content of an unlisted
address. `Mem Byte` is a list of `Host.Cell`. -/
abbrev Mem (α : Type) := List (Nat × α)

/-- One level of the register stack, with the tag of the PUSH that wrote it (R34, R414, D15; log 8). -/
inductive Frame where
  /-- never written since reset (D16) -/
  | unwritten
  /-- written by PUSH HL (R410) -/
  | hl (g c z : Bool) (a h l : Nibble)
  /-- written by PUSH XY (R411) -/
  | xy (ebr cbr x y : Nibble)
  deriving DecidableEq, Repr

/-- What an external reset leaves in the items whose reset value the spec calls unspecified (R542, R543, D16): one value
for each, drawn from outside (log 29). Data RAM nibbles not named keep their content ("may or may not preserve RAM"). -/
structure ResetDraw where
  g : Bool
  mieSaved : Bool
  callStack : Vector Word 32
  ram : List (DataAddr × Nibble)
  deriving DecidableEq, Repr

/-- What the outside does at one instruction boundary (R503, R505, R106, R540; log 13). -/
inductive Input where
  /-- nothing -/
  | quiet
  /-- an interrupt source starts to ask for service -/
  | request (name : Nat)
  /-- an interrupt source stops asking -/
  | withdraw (name : Nat)
  /-- the device's own state moves on its own -/
  | device (dev : Nat)
  /-- a byte of external memory changes on its own -/
  | external (a : Word) (b : Byte)
  /-- reset, "from outside at any instruction boundary or while halted" (R540) -/
  | reset (draw : ResetDraw)
  deriving DecidableEq, Repr

/-- The model-level outcomes of R501. The core has no synchronous exception (R500): each of these stops the model where
the spec gives no effect, and each is safe (the model stops where the hardware may go on). No state is left. -/
inductive Fault where
  /-- raised by the fetch (R142, D2): the word is no instruction of the core. Safe. -/
  | undefinedInstruction (w : Word)
  /-- raised by a fetch, by HALT's look at the next word, by MOVHB and MOVLB (R74, D3). Safe. -/
  | unimplementedPM (a : Word)
  /-- raised by an access to data RAM outside RAM_IMPL (R80, R81, D4). Safe. -/
  | unimplementedDM (a : DataAddr)
  /-- raised by an access to 000H..0F1H for which PERIPH has no device model (R80, R81, D5). Safe. -/
  | unimplementedSFR (a : DataAddr)
  /-- raised by MOVXB when external memory is absent or a is outside XM_IMPL (R76, D6). Safe. -/
  | unimplementedXM (a : Word)
  /-- raised by CAL, LCAL and interrupt entry with SP = 1FH and STACK_WRAP = fault (R35, D13). Safe. -/
  | stackOverflowCall
  /-- raised by RT, RTI, RTNMI with SP = 00H and STACK_WRAP = fault (R35, D13). Safe. -/
  | stackUnderflowCall
  /-- raised by PUSH with RSP = 0FH and STACK_WRAP = fault (R35, D14). Safe. -/
  | stackOverflowRegister
  /-- raised by POP with RSP = 0H and STACK_WRAP = fault (R35, D14). Safe. -/
  | stackUnderflowRegister
  /-- raised by a two-nibble transfer with the pair at 0FFH and BYTE_XFER_WRAP = fault (R382, D21). Safe. -/
  | byteTransferWrap (ea : DataAddr)
  /-- raised by JMP cadr12 and CAL cadr12 at an address ending 0FFFH, PAGE_BITS_AT_FFF = refuse (R431, D18). Safe. -/
  | pageEdgeJump (pc : Word)
  /-- raised by MSA with HAS_MELODY = false (R483, D7). Safe. -/
  | melodyAbsent (pc : Word)
  /-- raised by HALT when the next word is not 0000H and HALT_NOP_CHECK = refuse (R484, D30). Safe. -/
  | haltWithoutNop (pc : Word)
  deriving DecidableEq, Repr

/-- Why the model gives an instruction no meaning. -/
inductive Refusal where
  /-- raised by an arm of exec whose instruction has no meaning yet; no arm does. Safe. -/
  | notModelled (mnemonic : String)
  deriving DecidableEq, Repr

/-- The state. The first group is R20's, field by field; the second is memory outside the core; the third is the model's
own (INVENTORY.md). -/
structure State where
  /-- accumulator (R21) -/
  a : Nibble
  /-- carry flag (R25) -/
  c : Bool
  /-- zero flag (R25) -/
  z : Bool
  /-- G flag (R26) -/
  g : Bool
  /-- master interrupt enable (R29) -/
  mie : Bool
  /-- working register H, 0FCH (R22) -/
  h : Nibble
  /-- working register L, 0FBH (R22) -/
  l : Nibble
  /-- working register X, 0FAH (R22) -/
  x : Nibble
  /-- working register Y, 0F9H (R22) -/
  y : Nibble
  /-- current bank register, 0FDH (R23) -/
  cbr : Nibble
  /-- extra bank register, 0FEH (R23) -/
  ebr : Nibble
  /-- address register nibble, bits 3..0, 0F2H (R24) -/
  ra0 : Nibble
  /-- address register nibble, bits 7..4, 0F3H (R24) -/
  ra1 : Nibble
  /-- address register nibble, bits 11..8, 0F4H (R24) -/
  ra2 : Nibble
  /-- address register nibble, bits 15..12, 0F5H (R24) -/
  ra3 : Nibble
  /-- program counter: the address of the next instruction (R31, R11) -/
  pc : Word
  /-- call stack pointer (R33) -/
  sp : BitVec 5
  /-- register stack pointer, 0F6H (R34) -/
  rsp : BitVec 4
  /-- call stack (R33); a level holds the address to resume at, less 1 (R448, D10) -/
  callStack : Vector Word 32
  /-- register stack (R34, R414) -/
  regStack : Vector Frame 16
  /-- MIE_SAVED (R30) -/
  mieSaved : Bool
  /-- HALTED (R484) -/
  halted : Bool
  /-- data RAM 100H..FFFH (R75) -/
  dm : Mem Nibble
  /-- the device state behind the peripheral SFRs 000H..0F1H (R80, R81; log 12) -/
  dev : Nat
  /-- program memory (R71): the program image of the run -/
  pm : Mem Word
  /-- external memory (R76) -/
  xm : Mem Byte
  /-- the address MSA last handed to the device hook MelodyStart (R483; log 15) -/
  melodyStart : Option Word
  /-- the names of the interrupt sources that ask for service (R503; log 13) -/
  requests : List Nat
  /-- what the outside will do, one entry a step (log 13) -/
  inputs : List Input
  /-- how many free values have been drawn (log 11) -/
  draws : Nat
  /-- the parameters of R6 (log 2) -/
  params : Params
  deriving DecidableEq, Repr

/-- The machine right after reset (R542). DESIGN CHOICE (logs 2 to 8, 11 to 15): parameters at their defaults, and where the
spec gives no value: G and MIE_SAVED 0, call-stack levels 0000H, register-stack levels unwritten, memories with nothing
listed, no request and no input. -/
def State.reset : State where
  a := 0
  c := false
  z := false
  g := false
  mie := false
  h := 0
  l := 0
  x := 0
  y := 0
  cbr := 0
  ebr := 0
  ra0 := 0
  ra1 := 0
  ra2 := 0
  ra3 := 0
  pc := 0x0000
  sp := 0
  rsp := 0
  callStack := Vector.replicate 32 0x0000
  regStack := Vector.replicate 16 .unwritten
  mieSaved := false
  halted := false
  dm := []
  dev := 0
  pm := []
  xm := []
  melodyStart := none
  requests := []
  inputs := []
  draws := 0
  params := Params.defaults

end Sys2Proof.Machine
end

