-- ==== Sys2Proof/Machine/Memory.lean ====
section
/-! DEFINITION. The sparse memories behind the three spaces of 20_memory.md rule R70. `fill` is what an unlisted address
holds. A write keeps the list in its one canonical form, so that equal memories are equal lists. -/

namespace Sys2Proof.Machine

variable {α : Type} [DecidableEq α]

/-- The content of an address. -/
def Mem.read (fill : α) : Mem α → Nat → α
  | [], _ => fill
  | (k, v) :: m, a => if k = a then v else Mem.read fill m a

/-- The memory with new content at an address: the entry goes where its address belongs, and content equal to `fill` is not
listed. -/
def Mem.write (fill : α) : Mem α → Nat → α → Mem α
  | [], a, v => if v = fill then [] else [(a, v)]
  | (k, w) :: m, a, v =>
    if a < k then (if v = fill then (k, w) :: m else (a, v) :: (k, w) :: m)
    else if a = k then (if v = fill then m else (a, v) :: m)
    else (k, w) :: Mem.write fill m a v

/-- Every listed address is at least `lo` and below `hi`, addresses rise strictly and no entry holds `fill`. -/
def Mem.wf (fill : α) (lo hi : Nat) : Mem α → Bool
  | [] => true
  | (k, v) :: m => decide (lo ≤ k) && decide (k < hi) && decide (v ≠ fill) && Mem.wf fill (k + 1) hi m

/-- What an unlisted program word reads as. DESIGN CHOICE (log 3): 0000H; the program image of the run lists the rest. -/
def pmFill : Word := 0x0000

/-- What an unlisted data RAM nibble reads as. DESIGN CHOICE (log 4): 0H, where R543 leaves every nibble unspecified. -/
def dmFill : Nibble := 0x0

/-- What an unlisted external byte reads as. DESIGN CHOICE (log 5): 00H, where R542 leaves it to the device. -/
def xmFill : Byte := 0x00

end Sys2Proof.Machine
end

