-- ==== Sys2Proof/Machine/Ops.lean ====
section
/-! DEFINITION. The named operations over registers, memories, stacks, free values and interrupts: 10_state.md rules R22 to
R37, 20_memory.md rules R74 to R81, 46_stack_flag.md rules R410 to R414, 47_branch_call.md rules R448 and R450,
60_exceptions.md rules R503 to R509, 70_reset_and_hazards.md rules R540 to R543. -/

namespace Sys2Proof.Machine

/-! ### Register pairs -/

/-- HL = H:L (R22). -/
def State.hlPair (s : State) : Byte := s.h ++ s.l

/-- XY = X:Y (R22). -/
def State.xyPair (s : State) : Byte := s.x ++ s.y

/-- RA = RA3:RA2:RA1:RA0 (R24). -/
def State.ra (s : State) : Word := s.ra3 ++ s.ra2 ++ s.ra1 ++ s.ra0

/-- The value of a pointer pair (R22). -/
def State.pairValue (s : State) : Pair → Byte
  | .hl => s.hlPair
  | .xy => s.xyPair

/-- The value of a bank register (R23). -/
def State.bankValue (s : State) : Bank → Nibble
  | .cbr => s.cbr
  | .ebr => s.ebr

/-- The nibble of a byte from bit 3 down to 0. -/
def lowNibble (b : Byte) : Nibble := b.extractLsb' 0 4

/-- The nibble of a byte from bit 7 down to 4. -/
def highNibble (b : Byte) : Nibble := b.extractLsb' 4 4

/-- Both nibbles of a pair written: H or X gets bits 7..4, L or Y bits 3..0 (R90). -/
def State.setPair (s : State) (p : Pair) (v : Byte) : State :=
  match p with
  | .hl => { s with h := highNibble v, l := lowNibble v }
  | .xy => { s with x := highNibble v, y := lowNibble v }

/-- All four nibbles of RA written (R24). -/
def State.setRa (s : State) (v : Word) : State :=
  { s with ra3 := v.extractLsb' 12 4, ra2 := v.extractLsb' 8 4, ra1 := v.extractLsb' 4 4, ra0 := v.extractLsb' 0 4 }

/-- G written. -/
def State.setG (s : State) (g : Bool) : State := { s with g := g }

/-- PC written. -/
def State.setPc (s : State) (pc : Word) : State := { s with pc := pc }

/-- A, C and Z written. -/
def State.setAcz (s : State) (a : Nibble) (c z : Bool) : State := { s with a := a, c := c, z := z }

/-- The four-bit register of MOV reg,#i4 written directly (R470). -/
def State.setReg4 (s : State) (r : Reg4) (v : Nibble) : State :=
  match r with
  | .ebr => { s with ebr := v }
  | .cbr => { s with cbr := v }
  | .y => { s with y := v }
  | .x => { s with x := v }
  | .l => { s with l := v }
  | .h => { s with h := v }
  | .ra0 => { s with ra0 := v }
  | .ra1 => { s with ra1 := v }
  | .ra2 => { s with ra2 := v }
  | .ra3 => { s with ra3 := v }

/-- `PostInc` of R90 and the increment of INCB (R481): the pair is raised by k modulo 256, and G says whether it passed
0FFH. For k = 1 that is "the new pair value is 00H". The bank register is not touched. -/
def State.incPair (s : State) (p : Pair) (k : Nat) : State :=
  (s.setPair p (s.pairValue p + BitVec.ofNat 8 k)).setG (decide (0xFF < (s.pairValue p).toNat + k))

/-! ### Free values -/

/-- Ten free values, for the ten items U1 leaves open: Y, X, L, H, CBR, EBR, A, Z, C, G (log 9). -/
def State.scramble (s : State) : State :=
  { s with
    y := Config.freeNibble s.draws
    x := Config.freeNibble (s.draws + 1)
    l := Config.freeNibble (s.draws + 2)
    h := Config.freeNibble (s.draws + 3)
    cbr := Config.freeNibble (s.draws + 4)
    ebr := Config.freeNibble (s.draws + 5)
    a := Config.freeNibble (s.draws + 6)
    z := Config.freeBit (s.draws + 7)
    c := Config.freeBit (s.draws + 8)
    g := Config.freeBit (s.draws + 9)
    draws := s.draws + 10 }

/-- A free value in both nibbles of a pair (U2, log 10). -/
def State.drawPair (s : State) (p : Pair) : State :=
  { s.setPair p (Config.freeNibble s.draws ++ Config.freeNibble (s.draws + 1)) with draws := s.draws + 2 }

/-! ### Data memory -/

/-- The core registers of Table 1-2 (R36). -/
inductive CoreReg where
  | ra0 | ra1 | ra2 | ra3 | rsp | spl | sph | y | x | l | h | cbr | ebr | mief
  deriving DecidableEq, Repr

/-- What stands at a data address (R75, R80). -/
inductive DmCell where
  /-- data RAM, 100H..FFFH -/
  | ram
  /-- a peripheral special function register, 000H..0F1H -/
  | periph
  /-- a core register, 0F2H..0FFH -/
  | reg (r : CoreReg)
  deriving DecidableEq, Repr

/-- The dispatch of R80 and R81. -/
def dmCell (a : DataAddr) : DmCell :=
  match a.toNat with
  | 0x0F2 => .reg .ra0
  | 0x0F3 => .reg .ra1
  | 0x0F4 => .reg .ra2
  | 0x0F5 => .reg .ra3
  | 0x0F6 => .reg .rsp
  | 0x0F7 => .reg .spl
  | 0x0F8 => .reg .sph
  | 0x0F9 => .reg .y
  | 0x0FA => .reg .x
  | 0x0FB => .reg .l
  | 0x0FC => .reg .h
  | 0x0FD => .reg .cbr
  | 0x0FE => .reg .ebr
  | 0x0FF => .reg .mief
  | n => if n < 0x0F2 then .periph else .ram

/-- A core register as data memory reads it; the reserved bits of SPH and MIEF read 1 (R36, R80). -/
def State.coreGet (s : State) : CoreReg → Nibble
  | .ra0 => s.ra0
  | .ra1 => s.ra1
  | .ra2 => s.ra2
  | .ra3 => s.ra3
  | .rsp => s.rsp
  | .spl => s.sp.extractLsb' 0 4
  | .sph => 0b111#3 ++ s.sp.extractLsb' 4 1
  | .y => s.y
  | .x => s.x
  | .l => s.l
  | .h => s.h
  | .cbr => s.cbr
  | .ebr => s.ebr
  | .mief => 0b111#3 ++ BitVec.ofBool s.mie

/-- A core register as data memory writes it; SPL, SPH and MIEF are read-only and the write is dropped (R36, R81, D23). -/
def State.coreSet (s : State) (r : CoreReg) (v : Nibble) : State :=
  match r with
  | .ra0 => { s with ra0 := v }
  | .ra1 => { s with ra1 := v }
  | .ra2 => { s with ra2 := v }
  | .ra3 => { s with ra3 := v }
  | .rsp => { s with rsp := v }
  | .spl => s
  | .sph => s
  | .y => { s with y := v }
  | .x => { s with x := v }
  | .l => { s with l := v }
  | .h => { s with h := v }
  | .cbr => { s with cbr := v }
  | .ebr => { s with ebr := v }
  | .mief => s

/-- Membership in an implemented set (log 33). -/
def inRanges (rs : List AddrRange) (a : Nat) : Bool :=
  rs.any fun r => decide (r.lo ≤ a) && decide (a ≤ r.hi)

/-- `MemRead(DM:a, 1)` (R80). Only a peripheral read has an effect of its own, on the device. -/
def dmRead (s : State) (a : DataAddr) : Except Fault (Nibble × State) :=
  match dmCell a with
  | .ram =>
    if inRanges s.params.ramImpl a.toNat then .ok (Mem.read dmFill s.dm a.toNat, s)
    else .error (.unimplementedDM a)
  | .periph =>
    if inRanges s.params.periph a.toNat then
      .ok (Config.periphRead s.dev a, { s with dev := Config.periphAfterRead s.dev a })
    else .error (.unimplementedSFR a)
  | .reg r => .ok (s.coreGet r, s)

/-- `MemWrite(DM:a, 1, v)` (R81). -/
def dmWrite (s : State) (a : DataAddr) (v : Nibble) : Except Fault State :=
  match dmCell a with
  | .ram =>
    if inRanges s.params.ramImpl a.toNat then .ok { s with dm := Mem.write dmFill s.dm a.toNat v }
    else .error (.unimplementedDM a)
  | .periph =>
    if inRanges s.params.periph a.toNat then .ok { s with dev := Config.periphAfterWrite s.dev a v }
    else .error (.unimplementedSFR a)
  | .reg r => .ok (s.coreSet r v)

/-- The six registers of the note of R93: 0F9H..0FEH. -/
def isPointerReg (a : DataAddr) : Bool :=
  decide (0x0F9 ≤ a.toNat) && decide (a.toNat ≤ 0x0FE)

/-- The registers of the note of R94: 0F2H..0F5H and 0F9H..0FEH. -/
def isUndefinedDest (a : DataAddr) : Bool :=
  (decide (0x0F2 ≤ a.toNat) && decide (a.toNat ≤ 0x0F5)) || isPointerReg a

/-- The two addresses of a pointer pair's registers (R36): 0FBH and 0FCH, 0F9H and 0FAH. -/
def isPairReg (p : Pair) (a : DataAddr) : Bool :=
  match p with
  | .hl => a == 0x0FB#12 || a == 0x0FC#12
  | .xy => a == 0x0F9#12 || a == 0x0FA#12

/-- One destination nibble of a two-nibble transfer (R383): a register of R94 gets a free value (U2, log 10), any other
address the nibble. -/
def dmWriteByteHalf (s : State) (a : DataAddr) (v : Nibble) : Except Fault State :=
  if isUndefinedDest a then dmWrite { s with draws := s.draws + 1 } a (Config.freeNibble s.draws)
  else dmWrite s a v

/-! ### Program and external memory -/

/-- `MemRead(PM:a, 1)` (R74). -/
def pmRead (s : State) (a : Word) : Except Fault Word :=
  if a.toNat < s.params.pmWords then .ok (Mem.read pmFill s.pm a.toNat) else .error (.unimplementedPM a)

/-- Whether external memory answers at an address (R76, D6). -/
def xmHas (s : State) (a : Word) : Bool :=
  s.params.xmPresent && inRanges s.params.xmImpl a.toNat

/-- `MemRead(XM:a, 1)` (R76). -/
def xmRead (s : State) (a : Word) : Except Fault Byte :=
  if xmHas s a then .ok (Mem.read xmFill s.xm a.toNat) else .error (.unimplementedXM a)

/-- `MemWrite(XM:a, 1, v)` (R76). -/
def xmWrite (s : State) (a : Word) (v : Byte) : Except Fault State :=
  if xmHas s a then .ok { s with xm := Mem.write xmFill s.xm a.toNat v } else .error (.unimplementedXM a)

/-! ### The call stack -/

/-- A save (R33, R446): the level SP points at is written, then SP counts up, modulo 32 under STACK_WRAP = wrap (R35). -/
def callPush (s : State) (v : Word) : Except Fault State :=
  if s.sp = 0x1F#5 ∧ s.params.stackWrap = .fault then .error .stackOverflowCall
  else .ok { s with callStack := s.callStack.set s.sp.toNat v s.sp.isLt, sp := s.sp + 1 }

/-- A restore (R450): SP counts down, then PC is the level's value plus 1; the level is not erased. -/
def callReturn (s : State) : Except Fault State :=
  if s.sp = 0x00#5 ∧ s.params.stackWrap = .fault then .error .stackUnderflowCall
  else .ok { s with sp := s.sp - 1, pc := s.callStack[(s.sp - 1).toNat]'(s.sp - 1).isLt + 1 }

/-! ### The register stack -/

/-- A PUSH of a frame (R410, R411). -/
def framePush (s : State) (f : Frame) : Except Fault State :=
  if s.rsp = 0xF#4 ∧ s.params.stackWrap = .fault then .error .stackOverflowRegister
  else .ok { s with regStack := s.regStack.set s.rsp.toNat f s.rsp.isLt, rsp := s.rsp + 1 }

/-- A POP of a frame (R412, R413): RSP counts down, then the level is read; it is not erased. -/
def framePop (s : State) : Except Fault (Frame × State) :=
  if s.rsp = 0x0#4 ∧ s.params.stackWrap = .fault then .error .stackUnderflowRegister
  else .ok (s.regStack[(s.rsp - 1).toNat]'(s.rsp - 1).isLt, { s with rsp := s.rsp - 1 })

/-- What POP HL loads from a frame: the saved values, or six free values from a frame of the other kind (R414, U11). -/
def State.loadHL (s : State) (f : Frame) : State :=
  match f with
  | .hl g c z a h l => { s with g := g, c := c, z := z, a := a, h := h, l := l }
  | _ =>
    { s with
      g := Config.freeBit s.draws
      c := Config.freeBit (s.draws + 1)
      z := Config.freeBit (s.draws + 2)
      a := Config.freeNibble (s.draws + 3)
      h := Config.freeNibble (s.draws + 4)
      l := Config.freeNibble (s.draws + 5)
      draws := s.draws + 6 }

/-- What POP XY loads from a frame: the saved values, or four free values from a frame of the other kind (R414, U11). -/
def State.loadXY (s : State) (f : Frame) : State :=
  match f with
  | .xy ebr cbr x y => { s with ebr := ebr, cbr := cbr, x := x, y := y }
  | _ =>
    { s with
      ebr := Config.freeNibble s.draws
      cbr := Config.freeNibble (s.draws + 1)
      x := Config.freeNibble (s.draws + 2)
      y := Config.freeNibble (s.draws + 3)
      draws := s.draws + 4 }

/-! ### Interrupts -/

/-- R504: a source is eligible when it is requested and is non-maskable or MIE = 1. -/
def eligible (s : State) (src : IrqSource) : Bool :=
  s.requests.contains src.name && (src.cls == .nonMaskable || s.mie)

/-- The eligible source of highest priority in a table (R504, R508); of equal priorities the earlier one (log 14). -/
def bestEligible (s : State) : List IrqSource → Option IrqSource
  | [] => none
  | src :: rest =>
    match bestEligible s rest with
    | none => if eligible s src then some src else none
    | some b => if eligible s src && decide (b.priority ≤ src.priority) then some src else some b

/-- The source accepted at this boundary, if any (R504, R505). -/
def acceptedSource (s : State) : Option IrqSource := bestEligible s s.params.irq

/-- What the device does when its request is accepted (R503, log 14). -/
def acknowledge (src : IrqSource) (s : State) : State :=
  if src.ackClears then { s with requests := s.requests.filter (· != src.name) } else s

/-- TAKING AN INTERRUPT (R506, R507): PC - 1 goes to the call stack, MIE is cleared (kept by a non-maskable entry when
NMI_CLEARS_MIE is false), a non-maskable entry first saves MIE in MIE_SAVED, halt mode ends, PC is the handler's address,
and the device is told. Nothing else changes. -/
def takeInterrupt (src : IrqSource) (s : State) : Except Fault State :=
  match callPush s (s.pc - 1) with
  | .error f => .error f
  | .ok t =>
    match src.cls with
    | .maskable => .ok (acknowledge src { t with mie := false, halted := false, pc := src.vector })
    | .nonMaskable =>
      .ok (acknowledge src
        { t with mieSaved := s.mie, mie := s.mie && !s.params.nmiClearsMie, halted := false, pc := src.vector })

/-- A requested maskable source ends halt mode without an entry when HALT_WAKE_IGNORES_MIE is true (R509). -/
def wakesWithoutEntry (s : State) : Bool :=
  s.params.haltWakeIgnoresMie && s.params.irq.any fun src => s.requests.contains src.name && src.cls == .maskable

/-- A boundary in halt mode with no source accepted: the core changes nothing, or only leaves halt mode (R504, R509). -/
def haltedBoundary (s : State) : State :=
  if wakesWithoutEntry s then { s with halted := false } else s

/-! ### Reset and the other inputs -/

/-- Data RAM nibbles drawn by a reset; addresses below 100H are no RAM and are skipped. -/
def drawRam (dm : Mem Nibble) : List (DataAddr × Nibble) → Mem Nibble
  | [] => dm
  | (a, v) :: rest =>
    drawRam (if dmCell a = .ram then Mem.write dmFill dm a.toNat v else dm) rest

/-- A reset from outside (R540, R542, R543): the core is as after power-on but for the drawn items; program memory, external
memory, the device and its requests are not the core's and stay (log 29). DESIGN CHOICE (log 29): a non-maskable request
that stays is accepted at the boundary right after the reset, before the first fetch from 0000H. -/
def resetFrom (draw : ResetDraw) (s : State) : State :=
  { State.reset with
    g := draw.g
    mieSaved := draw.mieSaved
    callStack := draw.callStack
    dm := drawRam s.dm draw.ram
    dev := s.dev
    pm := s.pm
    xm := s.xm
    melodyStart := s.melodyStart
    requests := s.requests
    inputs := s.inputs
    draws := s.draws
    params := s.params }

/-- What one input does, between instructions (R503, R106, R540; log 13). -/
def applyInput (i : Input) (s : State) : State :=
  match i with
  | .quiet => s
  | .request n => { s with requests := if s.requests.contains n then s.requests else n :: s.requests }
  | .withdraw n => { s with requests := s.requests.filter (· != n) }
  | .device d => { s with dev := d }
  | .external a b => { s with xm := Mem.write xmFill s.xm a.toNat b }
  | .reset draw => resetFrom draw s

end Sys2Proof.Machine
end

