-- ==== Sys2Proof/Machine/Operands.lean ====
section
/-! DEFINITION. Operand forms and effective addresses (20_memory.md rules R84 to R94), and the skeletons every data-memory
instruction shares: one nibble (40_transfer.md rule R200) and two nibbles (45_romtable_external.md rule R381). -/

namespace Sys2Proof.Machine

/-- Every data-memory operand form (R84 to R91). -/
inductive Obj where
  | direct (r : BitVec 12)
  | sfr (r : BitVec 8)
  | cur (r : BitVec 8)
  | ind (o : Ind)
  deriving DecidableEq, Repr

/-- The ten forms of R260 among all forms. -/
def sfrObj : SfrObj → Obj
  | .sfr r => .sfr r
  | .cur r => .cur r
  | .ind o => .ind o

/-- The nine forms of R260 among all forms. -/
def curObj : CurObj → Obj
  | .cur r => .cur r
  | .ind o => .ind o

/-- The nine forms of R201 and R202 among all forms. -/
def dirObj : DirObj → Obj
  | .direct r => .direct r
  | .ind o => .ind o

/-- A pointer without post-increment among all forms (R336). -/
def ptrObj (p : Ptr) : Obj := .ind ⟨p, false⟩

/-- The address a pointer gives: bank register, then pair (R87 to R89). -/
def ptrAddr (s : State) (p : Ptr) : DataAddr := s.bankValue p.bank ++ s.pairValue p.pair

/-- `EA(obj)` (R84 to R91), from the register values before the instruction. -/
def effAddr (s : State) : Obj → DataAddr
  | .direct r => r
  | .sfr r => 0x0#4 ++ r
  | .cur r => s.cbr ++ r
  | .ind o => ptrAddr s o.ptr

/-- Whether an operand is a `+` form (R90). -/
def Obj.isPost : Obj → Bool
  | .ind o => o.post
  | _ => false

/-! ### One nibble -/

/-- What the body of a one-nibble instruction decides: the nibble stored to obj, if one is, and the new A, C and Z. -/
structure Effect where
  store : Option Nibble
  a : Nibble
  c : Bool
  z : Bool
  deriving DecidableEq, Repr

/-- The read of a body, where the instruction makes one (R82). -/
def dmReadIf (reads : Bool) (s : State) (a : DataAddr) : Except Fault (Nibble × State) :=
  if reads then dmRead s a else .ok (0, s)

/-- The write of a body, where the instruction makes one (R82). -/
def dmWriteIf (store : Option Nibble) (s : State) (a : DataAddr) : Except Fault State :=
  match store with
  | none => .ok s
  | some v => dmWrite s a v

/-- The body of R200: at most one read, then at most one write, to one address (R82), then A, C and Z. -/
def accessNibble (reads : Bool) (ea : DataAddr) (f : Nibble → Effect) (s : State) : Except Fault State :=
  match dmReadIf reads s ea with
  | .error e => .error e
  | .ok (v, s1) =>
    match dmWriteIf (f v).store s1 ea with
    | .error e => .error e
    | .ok s2 => .ok (s2.setAcz (f v).a (f v).c (f v).z)

/-- After the body of a one-nibble instruction (R200): the post-increment by 1, or the ten free values of U1 when a `+`
operand addressed 0F9H..0FEH (R93). -/
def afterNibble (o : Obj) (ea : DataAddr) (s : State) : State :=
  match o with
  | .ind i => if i.post then (if isPointerReg ea then s.scramble else s.incPair i.ptr.pair 1) else s
  | _ => s

/-- The skeleton of R200: effective address, body, post-increment, PC. -/
def nibbleOp (reads : Bool) (o : Obj) (f : Nibble → Effect) (s : State) : Host.Outcome State Fault Refusal :=
  match accessNibble reads (effAddr s o) f s with
  | .error e => .fault e
  | .ok t => .next ((afterNibble o (effAddr s o) t).setPc (s.pc + 1))

/-! ### Two nibbles -/

/-- The offset of a data address inside its bank. -/
def offsetOf (a : DataAddr) : Byte := a.extractLsb' 0 8

/-- The bank of a data address. -/
def bankOf (a : DataAddr) : Nibble := a.extractLsb' 8 4

/-- `NextNibble` (R382): the next offset of the same bank, or after offset 0FFH what BYTE_XFER_WRAP says. -/
def nextNibble (s : State) (ea : DataAddr) : Except Fault DataAddr :=
  if offsetOf ea = 0xFF#8 then
    match s.params.byteXferWrap with
    | .fault => .error (.byteTransferWrap ea)
    | .wrap8 => .ok (bankOf ea ++ 0x00#8)
    | .carry12 => .ok ((bankOf ea + 1) ++ 0x00#8)
  else .ok (bankOf ea ++ (offsetOf ea + 1))

/-- After the body of a two-nibble instruction (R381): the post-increment by 2; the ten free values of U1 when a `+` operand
addressed 0F9H..0FEH; or, when a destination nibble was a register of the pair itself, free values in the pair, with G from
the pair before the instruction (U2, log 10). -/
def afterByte (o : Ind) (ea : DataAddr) (pairDrawn : Bool) (s : State) : State :=
  if o.post then
    if isPointerReg ea then s.scramble
    else if pairDrawn then (s.drawPair o.ptr.pair).setG (decide (0xFF < (offsetOf ea).toNat + 2))
    else s.incPair o.ptr.pair 2
  else s

/-- A byte into data memory (R381, R384 to R390): the low nibble to obj, then the high nibble to obj+1. The source is read
before any write. -/
def byteLoad (o : Ind) (src : Except Fault Byte) (len : Word) (s : State) : Host.Outcome State Fault Refusal :=
  match nextNibble s (ptrAddr s o.ptr) with
  | .error e => .fault e
  | .ok ea1 =>
    match src with
    | .error e => .fault e
    | .ok b =>
      match dmWriteByteHalf s (ptrAddr s o.ptr) (lowNibble b) with
      | .error e => .fault e
      | .ok s1 =>
        match dmWriteByteHalf s1 ea1 (highNibble b) with
        | .error e => .fault e
        | .ok s2 =>
          .next ((afterByte o (ptrAddr s o.ptr) (isPairReg o.ptr.pair ea1) s2).setPc (s.pc + len))

/-- A byte out of data memory (R381, R391, R392): the nibble at obj, then the nibble at obj+1, then one byte write with the
second in bits 7..4. -/
def byteStore (o : Ind) (dst : Word) (len : Word) (s : State) : Host.Outcome State Fault Refusal :=
  match nextNibble s (ptrAddr s o.ptr) with
  | .error e => .fault e
  | .ok ea1 =>
    match dmRead s (ptrAddr s o.ptr) with
    | .error e => .fault e
    | .ok (lo, s1) =>
      match dmRead s1 ea1 with
      | .error e => .fault e
      | .ok (hi, s2) =>
        match xmWrite s2 dst (hi ++ lo) with
        | .error e => .fault e
        | .ok s3 => .next ((afterByte o (ptrAddr s o.ptr) false s3).setPc (s.pc + len))

/-- The less significant byte of a program word (R386). -/
def wordLow (w : Word) : Byte := w.extractLsb' 0 8

/-- The more significant byte of a program word (R384). -/
def wordHigh (w : Word) : Byte := w.extractLsb' 8 8

end Sys2Proof.Machine
end

