-- ==== Sys2Proof/Machine/Flags.lean ====
section
/-! DEFINITION. The results and flags of the one-nibble instructions: 41_rotate_incdec.md, 42_arithmetic.md,
43_compare_logical.md and 44_mask_bit.md. Sums and differences are computed exactly and narrowed at the end (R9). -/

namespace Sys2Proof.Machine

/-- Z of a stored result: 1 when the nibble is 0. -/
def zeroFlag (r : Nibble) : Bool := r == 0

/-- An arithmetic result: the nibble and the carry or borrow. -/
structure Alu where
  r : Nibble
  c : Bool
  deriving DecidableEq, Repr

/-- Stored to obj and A, with Z from the result and C from the operation (42_arithmetic.md). -/
def Alu.effect (x : Alu) : Effect := { store := some x.r, a := x.r, c := x.c, z := zeroFlag x.r }

/-- Only the flags, nothing written (CMP, R301, R302). -/
def Alu.flagsOnly (x : Alu) (s : State) : Effect := { store := none, a := s.a, c := x.c, z := zeroFlag x.r }

/-- Stored to obj and A, with Z from the result and C unchanged (AND, OR, XOR and the mask and bit instructions). -/
def logicEffect (s : State) (r : Nibble) : Effect := { store := some r, a := r, c := s.c, z := zeroFlag r }

/-- Only Z, nothing written (MTST, BTST). -/
def testEffect (s : State) (z : Bool) : Effect := { store := none, a := s.a, c := s.c, z := z }

/-- v + a + cin: the carry is the sum passing 0FH (R261 to R263). -/
def addAlu (v a : Nibble) (cin : Bool) : Alu :=
  let sum := v.toNat + a.toNat + cin.toNat
  { r := BitVec.ofNat 4 sum, c := decide (0xF < sum) }

/-- v - a - cin: the carry is the borrow (R266 to R268, R301, R302). -/
def subAlu (v a : Nibble) (cin : Bool) : Alu :=
  let d : Int := (v.toNat : Int) - a.toNat - cin.toNat
  { r := BitVec.ofInt 4 d, c := decide (d < 0) }

/-- ADCD (R264): a sum above 9 has 6 added and carries. -/
def addDecimal (v a : Nibble) (cin : Bool) : Alu :=
  let sum := v.toNat + a.toNat + cin.toNat
  if 9 < sum then { r := BitVec.ofNat 4 (sum + 6), c := true } else { r := BitVec.ofNat 4 sum, c := false }

/-- SBCD (R269): a borrow has 0AH added to the 4-bit difference. -/
def subDecimal (v a : Nibble) (cin : Bool) : Alu :=
  let d : Int := (v.toNat : Int) - a.toNat - cin.toNat
  if d < 0 then { r := BitVec.ofInt 4 (d + 10), c := true } else { r := BitVec.ofInt 4 d, c := false }

/-- The test that makes ADCJ adjust (R265, D19). Under `gt` the base 16 keeps `>=`. -/
def adjustsAt (threshold : AdcjThreshold) (t : Nat) (n : Base) : Bool :=
  match threshold with
  | .ge => decide (n.value ≤ t)
  | .gt => if n = .b16 then decide (16 ≤ t) else decide (n.value < t)

/-- ADCJ (R265): v + C, adjusted by the two's complement of n. -/
def addBase (threshold : AdcjThreshold) (v : Nibble) (cin : Bool) (n : Base) : Alu :=
  let t := v.toNat + cin.toNat
  if adjustsAt threshold t n then { r := BitVec.ofNat 4 (t + (16 - n.value)), c := true }
  else { r := BitVec.ofNat 4 t, c := false }

/-- SBCJ (R270, D20): v - C. Under `borrow` a borrow gives 0FH + n; under `resultIsF` a difference of 0FH does. C is the
borrow in both. -/
def subBase (adjust : SbcjAdjust) (v : Nibble) (cin : Bool) (n : Base) : Alu :=
  let d : Int := (v.toNat : Int) - cin.toNat
  let diff := BitVec.ofInt 4 d
  let adjusts := match adjust with
    | .borrow => decide (d < 0)
    | .resultIsF => diff == 0xF#4
  { r := if adjusts then BitVec.ofNat 4 (0xF + n.value) else diff, c := decide (d < 0) }

/-- ROL (R230): old bits 2..0 move up, the old C enters bit 0, the old bit 3 is the new C. -/
def rolAlu (v : Nibble) (c : Bool) : Alu :=
  { r := v.extractLsb' 0 3 ++ BitVec.ofBool c, c := v.getLsbD 3 }

/-- ROR (R231): the old C enters bit 3, old bits 3..1 move down, the old bit 0 is the new C. -/
def rorAlu (v : Nibble) (c : Bool) : Alu :=
  { r := BitVec.ofBool c ++ v.extractLsb' 1 3, c := v.getLsbD 0 }

/-- INC (R232): C and Z are both 1 exactly when the result is 0. -/
def incAlu (v : Nibble) : Alu := { r := v + 1, c := v + 1 == 0 }

/-- DEC (R233): C is 1 exactly when the result is 0FH. -/
def decAlu (v : Nibble) : Alu := { r := v - 1, c := v - 1 == 0xF#4 }

/-- MTST (R334, R335): 1 when some bit the mask selects is 0 in v. -/
def someSelectedClear (v mask : Nibble) : Bool := (v &&& mask) != mask

/-- MMOV (R336): every bit the mask selects becomes b, the others keep. -/
def copyBit (v mask : Nibble) (b : Bool) : Nibble := (v &&& ~~~mask) ||| (if b then mask else 0)

end Sys2Proof.Machine
end

