-- ==== Sys2Proof/Machine/Arithmetic.lean ====
section
/-! DEFINITION. The meanings of 42_arithmetic.md: ADD, ADC, ADCD, ADCJ, SUB, SBC, SBCD, SBCJ. -/

namespace Sys2Proof.Machine

/-- ADD obj,A (R261). -/
def execAddA (o : SfrObj) (s : State) : Host.Outcome State Fault Refusal :=
  nibbleOp true (sfrObj o) (fun v => (addAlu v s.a false).effect) s

/-- ADD obj,#i4 (R262). -/
def execAddImm (o : CurObj) (i : Nibble) (s : State) : Host.Outcome State Fault Refusal :=
  nibbleOp true (curObj o) (fun v => (addAlu v i false).effect) s

/-- ADC obj,A (R263). -/
def execAdc (o : SfrObj) (s : State) : Host.Outcome State Fault Refusal :=
  nibbleOp true (sfrObj o) (fun v => (addAlu v s.a s.c).effect) s

/-- ADCD obj,A (R264). -/
def execAdcd (o : SfrObj) (s : State) : Host.Outcome State Fault Refusal :=
  nibbleOp true (sfrObj o) (fun v => (addDecimal v s.a s.c).effect) s

/-- ADCJ obj,n (R265). -/
def execAdcj (o : CurObj) (n : Base) (s : State) : Host.Outcome State Fault Refusal :=
  nibbleOp true (curObj o) (fun v => (addBase s.params.adcjThreshold v s.c n).effect) s

/-- SUB obj,A (R266). -/
def execSubA (o : SfrObj) (s : State) : Host.Outcome State Fault Refusal :=
  nibbleOp true (sfrObj o) (fun v => (subAlu v s.a false).effect) s

/-- SUB obj,#i4 (R267). -/
def execSubImm (o : CurObj) (i : Nibble) (s : State) : Host.Outcome State Fault Refusal :=
  nibbleOp true (curObj o) (fun v => (subAlu v i false).effect) s

/-- SBC obj,A (R268). -/
def execSbc (o : SfrObj) (s : State) : Host.Outcome State Fault Refusal :=
  nibbleOp true (sfrObj o) (fun v => (subAlu v s.a s.c).effect) s

/-- SBCD obj,A (R269). -/
def execSbcd (o : SfrObj) (s : State) : Host.Outcome State Fault Refusal :=
  nibbleOp true (sfrObj o) (fun v => (subDecimal v s.a s.c).effect) s

/-- SBCJ obj,n (R270). -/
def execSbcj (o : CurObj) (n : Base) (s : State) : Host.Outcome State Fault Refusal :=
  nibbleOp true (curObj o) (fun v => (subBase s.params.sbcjAdjust v s.c n).effect) s

end Sys2Proof.Machine
end

