-- ==== Sys2Proof/Machine/BranchCall.lean ====
section
/-! DEFINITION. The meanings of 47_branch_call.md: branches, conditional branches, calls and returns. -/

namespace Sys2Proof.Machine

/-- The target of JMP cadr12 and CAL cadr12 (R431): the page bits of PC, at the last word of a page as PAGE_BITS_AT_FFF
says. -/
def pageTarget (s : State) (cadr : BitVec 12) : Except Fault Word :=
  if s.pc.extractLsb' 0 12 = 0xFFF#12 then
    match s.params.pageBitsAtFff with
    | .refuse => .error (.pageEdgeJump s.pc)
    | .own => .ok (s.pc.extractLsb' 12 4 ++ cadr)
    | .next => .ok ((s.pc + 1).extractLsb' 12 4 ++ cadr)
  else .ok (s.pc.extractLsb' 12 4 ++ cadr)

/-- NextPC + sext_16(radr8) (R98, R434). -/
def relTarget (pc : Word) (d : BitVec 8) : Word := pc + 1 + d.signExtend 16

/-- Bcond radr8 (R436): taken or not, only PC changes. -/
def branchIf (cond : Bool) (d : BitVec 8) (s : State) : Host.Outcome State Fault Refusal :=
  .next (s.setPc (if cond then relTarget s.pc d else s.pc + 1))

/-- A return (R450), and what it does to MIE. -/
def returnWith (mie : Bool) (s : State) : Host.Outcome State Fault Refusal :=
  match callReturn s with
  | .error e => .fault e
  | .ok t => .next { t with mie := mie }

/-- JMP cadr12 (R432). -/
def execJmp (cadr : BitVec 12) (s : State) : Host.Outcome State Fault Refusal :=
  match pageTarget s cadr with
  | .error e => .fault e
  | .ok target => .next (s.setPc target)

/-- LJMP cadr16 (R433). -/
def execLjmp (cadr : Word) (s : State) : Host.Outcome State Fault Refusal :=
  .next (s.setPc cadr)

/-- SJMP radr8 (R434). -/
def execSjmp (d : BitVec 8) (s : State) : Host.Outcome State Fault Refusal :=
  .next (s.setPc (relTarget s.pc d))

/-- JMP PC+A (R435). -/
def execJmpPcA (s : State) : Host.Outcome State Fault Refusal :=
  .next (s.setPc (s.pc + s.a.setWidth 16 + 1))

/-- BC radr8 (R438). -/
def execBc (d : BitVec 8) (s : State) : Host.Outcome State Fault Refusal := branchIf s.c d s

/-- BLT radr8 (R438, R445). -/
def execBlt (d : BitVec 8) (s : State) : Host.Outcome State Fault Refusal := branchIf s.c d s

/-- BNC radr8 (R439). -/
def execBnc (d : BitVec 8) (s : State) : Host.Outcome State Fault Refusal := branchIf (!s.c) d s

/-- BGE radr8 (R439, R445). -/
def execBge (d : BitVec 8) (s : State) : Host.Outcome State Fault Refusal := branchIf (!s.c) d s

/-- BZ radr8 (R440). -/
def execBz (d : BitVec 8) (s : State) : Host.Outcome State Fault Refusal := branchIf s.z d s

/-- BEQ radr8 (R440, R445). -/
def execBeq (d : BitVec 8) (s : State) : Host.Outcome State Fault Refusal := branchIf s.z d s

/-- BNZ radr8 (R441). -/
def execBnz (d : BitVec 8) (s : State) : Host.Outcome State Fault Refusal := branchIf (!s.z) d s

/-- BNE radr8 (R441, R445). -/
def execBne (d : BitVec 8) (s : State) : Host.Outcome State Fault Refusal := branchIf (!s.z) d s

/-- BLE radr8 (R442). -/
def execBle (d : BitVec 8) (s : State) : Host.Outcome State Fault Refusal := branchIf (s.c || s.z) d s

/-- BGT radr8 (R443). -/
def execBgt (d : BitVec 8) (s : State) : Host.Outcome State Fault Refusal := branchIf (!s.c && !s.z) d s

/-- BNG radr8 (R444). -/
def execBng (d : BitVec 8) (s : State) : Host.Outcome State Fault Refusal := branchIf (!s.g) d s

/-- CAL cadr12 (R446): its own address is saved. -/
def execCal (cadr : BitVec 12) (s : State) : Host.Outcome State Fault Refusal :=
  match callPush s s.pc with
  | .error e => .fault e
  | .ok t =>
    match pageTarget s cadr with
    | .error e => .fault e
    | .ok target => .next (t.setPc target)

/-- LCAL cadr16 (R447): the address of its second word is saved. -/
def execLcal (cadr : Word) (s : State) : Host.Outcome State Fault Refusal :=
  match callPush s (s.pc + 1) with
  | .error e => .fault e
  | .ok t => .next (t.setPc cadr)

/-- RT (R451). -/
def execRt (s : State) : Host.Outcome State Fault Refusal := returnWith s.mie s

/-- RTI (R452): RETURN FROM A MASKABLE INTERRUPT. -/
def execRti (s : State) : Host.Outcome State Fault Refusal := returnWith true s

/-- RTNMI (R455): RETURN FROM A NON-MASKABLE INTERRUPT. -/
def execRtnmi (s : State) : Host.Outcome State Fault Refusal := returnWith s.mieSaved s

end Sys2Proof.Machine
end

