-- ==== Sys2Proof/Machine/CompareLogical.lean ====
section
/-! DEFINITION. The meanings of 43_compare_logical.md: CMP, AND, OR, XOR. -/

namespace Sys2Proof.Machine

/-- CMP obj,A (R301). -/
def execCmpA (o : SfrObj) (s : State) : Host.Outcome State Fault Refusal :=
  nibbleOp true (sfrObj o) (fun v => (subAlu v s.a false).flagsOnly s) s

/-- CMP obj,#i4 (R302). -/
def execCmpImm (o : CurObj) (i : Nibble) (s : State) : Host.Outcome State Fault Refusal :=
  nibbleOp true (curObj o) (fun v => (subAlu v i false).flagsOnly s) s

/-- AND obj,A (R303). -/
def execAndA (o : SfrObj) (s : State) : Host.Outcome State Fault Refusal :=
  nibbleOp true (sfrObj o) (fun v => logicEffect s (v &&& s.a)) s

/-- AND obj,#i4 (R304). -/
def execAndImm (o : CurObj) (i : Nibble) (s : State) : Host.Outcome State Fault Refusal :=
  nibbleOp true (curObj o) (fun v => logicEffect s (v &&& i)) s

/-- OR obj,A (R305). -/
def execOrA (o : SfrObj) (s : State) : Host.Outcome State Fault Refusal :=
  nibbleOp true (sfrObj o) (fun v => logicEffect s (v ||| s.a)) s

/-- OR obj,#i4 (R306). -/
def execOrImm (o : CurObj) (i : Nibble) (s : State) : Host.Outcome State Fault Refusal :=
  nibbleOp true (curObj o) (fun v => logicEffect s (v ||| i)) s

/-- XOR obj,A (R307). -/
def execXorA (o : SfrObj) (s : State) : Host.Outcome State Fault Refusal :=
  nibbleOp true (sfrObj o) (fun v => logicEffect s (v ^^^ s.a)) s

/-- XOR obj,#i4 (R308). -/
def execXorImm (o : CurObj) (i : Nibble) (s : State) : Host.Outcome State Fault Refusal :=
  nibbleOp true (curObj o) (fun v => logicEffect s (v ^^^ i)) s

end Sys2Proof.Machine
end

