-- ==== Sys2Proof/Machine/Control.lean ====
section
/-! DEFINITION. The meanings of 48_control.md: MOV reg,#i4, INCB, INCW, MSA, HALT, NOP, EI, DI. -/

namespace Sys2Proof.Machine

/-- MOV reg,#i4 (R470). -/
def execMovReg (r : Reg4) (i : Nibble) (s : State) : Host.Outcome State Fault Refusal :=
  .next ((s.setReg4 r i).setPc (s.pc + 1))

/-- INCB HL (R481). -/
def execIncbHL (s : State) : Host.Outcome State Fault Refusal :=
  .next ((s.incPair .hl 1).setPc (s.pc + 1))

/-- INCB XY (R481). -/
def execIncbXY (s : State) : Host.Outcome State Fault Refusal :=
  .next ((s.incPair .xy 1).setPc (s.pc + 1))

/-- INCW RA (R482). -/
def execIncwRA (s : State) : Host.Outcome State Fault Refusal :=
  .next (((s.setRa (s.ra + 1)).setG (s.ra + 1 == 0)).setPc (s.pc + 1))

/-- MSA cadr16 (R483): the device hook is told the address; the core only moves on. -/
def execMsa (cadr : Word) (s : State) : Host.Outcome State Fault Refusal :=
  if s.params.hasMelody then .next { s with melodyStart := some cadr, pc := s.pc + 2 }
  else .fault (.melodyAbsent s.pc)

/-- The check of the word after HALT (R484, D30). -/
def haltCheck (s : State) : Except Fault Unit :=
  match s.params.haltNopCheck with
  | .ignore => .ok ()
  | .refuse =>
    match pmRead s (s.pc + 1) with
    | .error e => .error e
    | .ok w => if w = 0x0000#16 then .ok () else .error (.haltWithoutNop s.pc)

/-- HALT (R484). -/
def execHalt (s : State) : Host.Outcome State Fault Refusal :=
  match haltCheck s with
  | .error e => .fault e
  | .ok () => .next { s with halted := true, pc := s.pc + 1 }

/-- NOP (R485). -/
def execNop (s : State) : Host.Outcome State Fault Refusal :=
  .next (s.setPc (s.pc + 1))

/-- EI (R486). -/
def execEi (s : State) : Host.Outcome State Fault Refusal :=
  .next { s with mie := true, pc := s.pc + 1 }

/-- DI (R487). -/
def execDi (s : State) : Host.Outcome State Fault Refusal :=
  .next { s with mie := false, pc := s.pc + 1 }

end Sys2Proof.Machine
end

