-- ==== Sys2Proof/Machine/MaskBit.lean ====
section
/-! DEFINITION. The meanings of 44_mask_bit.md: MCLR, MSET, MNOT, MTST, MMOV, BCLR, BSET, BNOT, BTST, BMOV. -/

namespace Sys2Proof.Machine

/-- MCLR obj,#m (R331): the bits where m is 0 are cleared. -/
def execMclr (o : CurObj) (m : Nibble) (s : State) : Host.Outcome State Fault Refusal :=
  nibbleOp true (curObj o) (fun v => logicEffect s (v &&& m)) s

/-- MSET obj,#m (R332). -/
def execMset (o : CurObj) (m : Nibble) (s : State) : Host.Outcome State Fault Refusal :=
  nibbleOp true (curObj o) (fun v => logicEffect s (v ||| m)) s

/-- MNOT obj,#m (R333). -/
def execMnot (o : CurObj) (m : Nibble) (s : State) : Host.Outcome State Fault Refusal :=
  nibbleOp true (curObj o) (fun v => logicEffect s (v ^^^ m)) s

/-- MTST obj,A (R334). -/
def execMtstA (o : SfrObj) (s : State) : Host.Outcome State Fault Refusal :=
  nibbleOp true (sfrObj o) (fun v => testEffect s (someSelectedClear v s.a)) s

/-- MTST obj,#m (R335). -/
def execMtstImm (o : CurObj) (m : Nibble) (s : State) : Host.Outcome State Fault Refusal :=
  nibbleOp true (curObj o) (fun v => testEffect s (someSelectedClear v m)) s

/-- MMOV obj,#m,A.n (R336). -/
def execMmov (p : Ptr) (m : Nibble) (n : BitVec 2) (s : State) : Host.Outcome State Fault Refusal :=
  nibbleOp true (ptrObj p) (fun v => logicEffect s (copyBit v m (s.a.getLsbD n.toNat))) s

/-- BCLR obj.n (R346). -/
def execBclr (o : CurObj) (n : BitVec 2) (s : State) : Host.Outcome State Fault Refusal :=
  nibbleOp true (curObj o) (fun v => logicEffect s (v &&& clearCode n)) s

/-- BSET obj.n (R347): Z is written 0, since the result is never 0. -/
def execBset (o : CurObj) (n : BitVec 2) (s : State) : Host.Outcome State Fault Refusal :=
  nibbleOp true (curObj o)
    (fun v => { store := some (v ||| bitCode n), a := v ||| bitCode n, c := s.c, z := false }) s

/-- BNOT obj.n (R348). -/
def execBnot (o : CurObj) (n : BitVec 2) (s : State) : Host.Outcome State Fault Refusal :=
  nibbleOp true (curObj o) (fun v => logicEffect s (v ^^^ bitCode n)) s

/-- BTST obj.n (R349): Z is the complement of the bit. -/
def execBtst (o : CurObj) (n : BitVec 2) (s : State) : Host.Outcome State Fault Refusal :=
  nibbleOp true (curObj o) (fun v => testEffect s (!v.getLsbD n.toNat)) s

/-- BMOV obj.n1,A.n2 (R352): bit n1 becomes bit n2 of A. -/
def execBmov (p : Ptr) (n1 n2 : BitVec 2) (s : State) : Host.Outcome State Fault Refusal :=
  nibbleOp true (ptrObj p) (fun v => logicEffect s (copyBit v (bitCode n1) (s.a.getLsbD n2.toNat))) s

end Sys2Proof.Machine
end

