-- ==== Sys2Proof/Machine/RomExternal.lean ====
section
/-! DEFINITION. The meanings of 45_romtable_external.md: MOVHB, MOVLB, MOVXB. -/

namespace Sys2Proof.Machine

/-- The high byte of a program word (R384). -/
def pmHigh (s : State) (a : Word) : Except Fault Byte :=
  match pmRead s a with
  | .error e => .error e
  | .ok w => .ok (wordHigh w)

/-- The low byte of a program word (R386). -/
def pmLow (s : State) (a : Word) : Except Fault Byte :=
  match pmRead s a with
  | .error e => .error e
  | .ok w => .ok (wordLow w)

/-- MOVHB obj,[RA] (R384). -/
def execMovhbRA (o : Ind) (s : State) : Host.Outcome State Fault Refusal :=
  byteLoad o (pmHigh s s.ra) 1 s

/-- MOVHB obj,cadr16 (R385). -/
def execMovhbAbs (o : Ind) (cadr : Word) (s : State) : Host.Outcome State Fault Refusal :=
  byteLoad o (pmHigh s cadr) 2 s

/-- MOVLB obj,[RA] (R386). -/
def execMovlbRA (o : Ind) (s : State) : Host.Outcome State Fault Refusal :=
  byteLoad o (pmLow s s.ra) 1 s

/-- MOVLB obj,cadr16 (R387). -/
def execMovlbAbs (o : Ind) (cadr : Word) (s : State) : Host.Outcome State Fault Refusal :=
  byteLoad o (pmLow s cadr) 2 s

/-- MOVXB obj,[RA] (R389). -/
def execMovxbLoadRA (o : Ind) (s : State) : Host.Outcome State Fault Refusal :=
  byteLoad o (xmRead s s.ra) 1 s

/-- MOVXB obj,xadr16 (R390). -/
def execMovxbLoadAbs (o : Ind) (xadr : Word) (s : State) : Host.Outcome State Fault Refusal :=
  byteLoad o (xmRead s xadr) 2 s

/-- MOVXB [RA],obj (R391). -/
def execMovxbStoreRA (o : Ind) (s : State) : Host.Outcome State Fault Refusal :=
  byteStore o s.ra 1 s

/-- MOVXB xadr16,obj (R392). -/
def execMovxbStoreAbs (xadr : Word) (o : Ind) (s : State) : Host.Outcome State Fault Refusal :=
  byteStore o xadr 2 s

end Sys2Proof.Machine
end

