-- ==== Sys2Proof/Machine/RotateIncDec.lean ====
section
/-! DEFINITION. The meanings of 41_rotate_incdec.md: ROL, ROR, INC, DEC. -/

namespace Sys2Proof.Machine

/-- ROL obj (R230). -/
def execRol (o : SfrObj) (s : State) : Host.Outcome State Fault Refusal :=
  nibbleOp true (sfrObj o) (fun v => (rolAlu v s.c).effect) s

/-- ROR obj (R231). -/
def execRor (o : SfrObj) (s : State) : Host.Outcome State Fault Refusal :=
  nibbleOp true (sfrObj o) (fun v => (rorAlu v s.c).effect) s

/-- INC obj (R232). -/
def execInc (o : SfrObj) (s : State) : Host.Outcome State Fault Refusal :=
  nibbleOp true (sfrObj o) (fun v => (incAlu v).effect) s

/-- DEC obj (R233). -/
def execDec (o : SfrObj) (s : State) : Host.Outcome State Fault Refusal :=
  nibbleOp true (sfrObj o) (fun v => (decAlu v).effect) s

end Sys2Proof.Machine
end

