-- ==== Sys2Proof/Machine/StackFlag.lean ====
section
/-! DEFINITION. The meanings of 46_stack_flag.md: PUSH, POP, FCLR, FSET. -/

namespace Sys2Proof.Machine

/-- A PUSH of a frame, then PC (R410, R411). -/
def pushFrame (f : Frame) (s : State) : Host.Outcome State Fault Refusal :=
  match framePush s f with
  | .error e => .fault e
  | .ok t => .next (t.setPc (s.pc + 1))

/-- PUSH HL (R410). -/
def execPushHL (s : State) : Host.Outcome State Fault Refusal :=
  pushFrame (.hl s.g s.c s.z s.a s.h s.l) s

/-- PUSH XY (R411). -/
def execPushXY (s : State) : Host.Outcome State Fault Refusal :=
  pushFrame (.xy s.ebr s.cbr s.x s.y) s

/-- POP HL (R412, R414). -/
def execPopHL (s : State) : Host.Outcome State Fault Refusal :=
  match framePop s with
  | .error e => .fault e
  | .ok (f, t) => .next ((t.loadHL f).setPc (s.pc + 1))

/-- POP XY (R413, R414). -/
def execPopXY (s : State) : Host.Outcome State Fault Refusal :=
  match framePop s with
  | .error e => .fault e
  | .ok (f, t) => .next ((t.loadXY f).setPc (s.pc + 1))

/-- FCLR C (R416). -/
def execFclrC (s : State) : Host.Outcome State Fault Refusal :=
  .next { s with c := false, pc := s.pc + 1 }

/-- FCLR Z (R417). -/
def execFclrZ (s : State) : Host.Outcome State Fault Refusal :=
  .next { s with z := false, pc := s.pc + 1 }

/-- FCLR G (R418). -/
def execFclrG (s : State) : Host.Outcome State Fault Refusal :=
  .next { s with g := false, pc := s.pc + 1 }

/-- FCLR FLAG (R419). -/
def execFclrFlag (s : State) : Host.Outcome State Fault Refusal :=
  .next { s with z := false, c := false, g := false, pc := s.pc + 1 }

/-- FSET C (R420). -/
def execFsetC (s : State) : Host.Outcome State Fault Refusal :=
  .next { s with c := true, pc := s.pc + 1 }

/-- FSET Z (R421). -/
def execFsetZ (s : State) : Host.Outcome State Fault Refusal :=
  .next { s with z := true, pc := s.pc + 1 }

/-- FSET G (R422). -/
def execFsetG (s : State) : Host.Outcome State Fault Refusal :=
  .next { s with g := true, pc := s.pc + 1 }

/-- FSET FLAG (R423). -/
def execFsetFlag (s : State) : Host.Outcome State Fault Refusal :=
  .next { s with z := true, c := true, g := true, pc := s.pc + 1 }

end Sys2Proof.Machine
end

