-- ==== Sys2Proof/Machine/Transfer.lean ====
section
/-! DEFINITION. The meanings of 40_transfer.md: MOV and XCH. -/

namespace Sys2Proof.Machine

/-- MOV obj,A (R201): A is stored; obj is not read. -/
def execMovObjA (o : DirObj) (s : State) : Host.Outcome State Fault Refusal :=
  nibbleOp false (dirObj o) (fun _ => { store := some s.a, a := s.a, c := s.c, z := s.z }) s

/-- MOV A,obj (R202). -/
def execMovAObj (o : DirObj) (s : State) : Host.Outcome State Fault Refusal :=
  nibbleOp true (dirObj o) (fun v => { store := none, a := v, c := s.c, z := zeroFlag v }) s

/-- MOV A,#i4 (R203). -/
def execMovAImm (i : Nibble) (s : State) : Host.Outcome State Fault Refusal :=
  .next ((s.setAcz i s.c (zeroFlag i)).setPc (s.pc + 1))

/-- MOV obj,#i4 (R204): the immediate goes to obj and A; obj is not read. -/
def execMovObjImm (o : CurObj) (i : Nibble) (s : State) : Host.Outcome State Fault Refusal :=
  nibbleOp false (curObj o) (fun _ => logicEffect s i) s

/-- XCH A,obj (R205): the old A is stored, A gets the nibble read, no flag changes. -/
def execXch (o : SfrObj) (s : State) : Host.Outcome State Fault Refusal :=
  nibbleOp true (sfrObj o) (fun v => { store := some s.a, a := v, c := s.c, z := s.z }) s

end Sys2Proof.Machine
end

