-- ==== Sys2Proof/Machine/Dispatch.lean ====
section
/-! DEFINITION. One arm per instruction. -/

namespace Sys2Proof.Machine

def exec (i : Instr) (s : State) : Host.Outcome State Fault Refusal :=
  match i with
  | .movObjA o => Sys2Proof.Machine.execMovObjA o s
  | .movAObj o => Sys2Proof.Machine.execMovAObj o s
  | .movAImm v => Sys2Proof.Machine.execMovAImm v s
  | .movObjImm o v => Sys2Proof.Machine.execMovObjImm o v s
  | .xch o => Sys2Proof.Machine.execXch o s
  | .rol o => Sys2Proof.Machine.execRol o s
  | .ror o => Sys2Proof.Machine.execRor o s
  | .inc o => Sys2Proof.Machine.execInc o s
  | .dec o => Sys2Proof.Machine.execDec o s
  | .addA o => Sys2Proof.Machine.execAddA o s
  | .addImm o v => Sys2Proof.Machine.execAddImm o v s
  | .adc o => Sys2Proof.Machine.execAdc o s
  | .adcd o => Sys2Proof.Machine.execAdcd o s
  | .adcj o n => Sys2Proof.Machine.execAdcj o n s
  | .subA o => Sys2Proof.Machine.execSubA o s
  | .subImm o v => Sys2Proof.Machine.execSubImm o v s
  | .sbc o => Sys2Proof.Machine.execSbc o s
  | .sbcd o => Sys2Proof.Machine.execSbcd o s
  | .sbcj o n => Sys2Proof.Machine.execSbcj o n s
  | .cmpA o => Sys2Proof.Machine.execCmpA o s
  | .cmpImm o v => Sys2Proof.Machine.execCmpImm o v s
  | .andA o => Sys2Proof.Machine.execAndA o s
  | .andImm o v => Sys2Proof.Machine.execAndImm o v s
  | .orA o => Sys2Proof.Machine.execOrA o s
  | .orImm o v => Sys2Proof.Machine.execOrImm o v s
  | .xorA o => Sys2Proof.Machine.execXorA o s
  | .xorImm o v => Sys2Proof.Machine.execXorImm o v s
  | .mclr o m => Sys2Proof.Machine.execMclr o m s
  | .mset o m => Sys2Proof.Machine.execMset o m s
  | .mnot o m => Sys2Proof.Machine.execMnot o m s
  | .mtstA o => Sys2Proof.Machine.execMtstA o s
  | .mtstImm o m => Sys2Proof.Machine.execMtstImm o m s
  | .mmov p m n => Sys2Proof.Machine.execMmov p m n s
  | .bclr o n => Sys2Proof.Machine.execBclr o n s
  | .bset o n => Sys2Proof.Machine.execBset o n s
  | .bnot o n => Sys2Proof.Machine.execBnot o n s
  | .btst o n => Sys2Proof.Machine.execBtst o n s
  | .bmov p n1 n2 => Sys2Proof.Machine.execBmov p n1 n2 s
  | .movhbRA o => Sys2Proof.Machine.execMovhbRA o s
  | .movhbAbs o cadr => Sys2Proof.Machine.execMovhbAbs o cadr s
  | .movlbRA o => Sys2Proof.Machine.execMovlbRA o s
  | .movlbAbs o cadr => Sys2Proof.Machine.execMovlbAbs o cadr s
  | .movxbLoadRA o => Sys2Proof.Machine.execMovxbLoadRA o s
  | .movxbLoadAbs o xadr => Sys2Proof.Machine.execMovxbLoadAbs o xadr s
  | .movxbStoreRA o => Sys2Proof.Machine.execMovxbStoreRA o s
  | .movxbStoreAbs xadr o => Sys2Proof.Machine.execMovxbStoreAbs xadr o s
  | .pushHL => Sys2Proof.Machine.execPushHL s
  | .pushXY => Sys2Proof.Machine.execPushXY s
  | .popHL => Sys2Proof.Machine.execPopHL s
  | .popXY => Sys2Proof.Machine.execPopXY s
  | .fclrC => Sys2Proof.Machine.execFclrC s
  | .fclrZ => Sys2Proof.Machine.execFclrZ s
  | .fclrG => Sys2Proof.Machine.execFclrG s
  | .fclrFlag => Sys2Proof.Machine.execFclrFlag s
  | .fsetC => Sys2Proof.Machine.execFsetC s
  | .fsetZ => Sys2Proof.Machine.execFsetZ s
  | .fsetG => Sys2Proof.Machine.execFsetG s
  | .fsetFlag => Sys2Proof.Machine.execFsetFlag s
  | .jmp cadr => Sys2Proof.Machine.execJmp cadr s
  | .ljmp cadr => Sys2Proof.Machine.execLjmp cadr s
  | .sjmp radr => Sys2Proof.Machine.execSjmp radr s
  | .jmpPcA => Sys2Proof.Machine.execJmpPcA s
  | .bc radr => Sys2Proof.Machine.execBc radr s
  | .blt radr => Sys2Proof.Machine.execBlt radr s
  | .bnc radr => Sys2Proof.Machine.execBnc radr s
  | .bge radr => Sys2Proof.Machine.execBge radr s
  | .bz radr => Sys2Proof.Machine.execBz radr s
  | .beq radr => Sys2Proof.Machine.execBeq radr s
  | .bnz radr => Sys2Proof.Machine.execBnz radr s
  | .bne radr => Sys2Proof.Machine.execBne radr s
  | .ble radr => Sys2Proof.Machine.execBle radr s
  | .bgt radr => Sys2Proof.Machine.execBgt radr s
  | .bng radr => Sys2Proof.Machine.execBng radr s
  | .cal cadr => Sys2Proof.Machine.execCal cadr s
  | .lcal cadr => Sys2Proof.Machine.execLcal cadr s
  | .rt => Sys2Proof.Machine.execRt s
  | .rti => Sys2Proof.Machine.execRti s
  | .rtnmi => Sys2Proof.Machine.execRtnmi s
  | .movReg r v => Sys2Proof.Machine.execMovReg r v s
  | .incbHL => Sys2Proof.Machine.execIncbHL s
  | .incbXY => Sys2Proof.Machine.execIncbXY s
  | .incwRA => Sys2Proof.Machine.execIncwRA s
  | .msa cadr => Sys2Proof.Machine.execMsa cadr s
  | .halt => Sys2Proof.Machine.execHalt s
  | .nop => Sys2Proof.Machine.execNop s
  | .ei => Sys2Proof.Machine.execEi s
  | .di => Sys2Proof.Machine.execDi s

end Sys2Proof.Machine
end

