-- ==== Sys2Proof/Machine/Fetch.lean ====
section
/-! DEFINITION. Fetching an instruction (30_encoding.md rules R121 to R123) and what happens at an instruction boundary
(60_exceptions.md rules R504, R505, R509). -/

namespace Sys2Proof.Machine

/-- The second word of a fetch (R123): read only when the first word says there are two. -/
def fetchSecond (s : State) (first : Word) : Except Fault Word :=
  if isTwoWord first then pmRead s (s.pc + 1) else .ok 0x0000

/-- The instruction at PC, or the outcome of R501 that the fetch stops with. -/
def fetch (s : State) : Except Fault Instr :=
  match pmRead s s.pc with
  | .error e => .error e
  | .ok w =>
    match fetchSecond s w with
    | .error e => .error e
    | .ok second =>
      match decode s.params.core w second with
      | .error _ => .error (.undefinedInstruction w)
      | .ok i => .ok i

/-- One outcome of a boundary action. -/
def ofExcept (r : Except Fault State) : Host.Outcome State Fault Refusal :=
  match r with
  | .error e => .fault e
  | .ok t => .next t

/-- The state in which nothing stands between the machine and its next fetch: no input waits, no source asks, the core is
not halted and every program address is implemented (log 32). -/
def readyToFetch (s : State) : State :=
  { s with inputs := [], requests := [], halted := false, params := { s.params with pmWords := 65536 } }

/-- The two words of an instruction stored at PC, the first at the lower address (R122). -/
def storeWords (s : State) (first second : Word) : State :=
  { s with pm := Mem.write pmFill (Mem.write pmFill s.pm s.pc.toNat first) (s.pc + 1).toNat second }

end Sys2Proof.Machine
end

