-- ==== Sys2Proof/Machine/Step.lean ====
section
/-! DEFINITION. The step: one input of the outside, or one instruction boundary, which accepts an interrupt, stays in halt
mode, or fetches and executes one instruction (60_exceptions.md rules R504, R505, R509). -/

namespace Sys2Proof.Machine

/-- Fetch and execute the instruction at PC. -/
def runInstr (s : State) : Host.Outcome State Fault Refusal :=
  match fetch s with
  | .error e => .fault e
  | .ok i => exec i s

/-- An instruction boundary: an accepted interrupt is entered; otherwise a halted core stays, and a running one executes. -/
def boundary (s : State) : Host.Outcome State Fault Refusal :=
  match acceptedSource s with
  | some src => ofExcept (takeInterrupt src s)
  | none => if s.halted then .next (haltedBoundary s) else runInstr s

/-- One step (log 13): a waiting event of the outside is applied; `quiet`, or no input, lets the core act. -/
def step (s : State) : Host.Outcome State Fault Refusal :=
  match s.inputs with
  | [] => boundary s
  | .quiet :: rest => boundary { s with inputs := rest }
  | i :: rest => .next (applyInput i { s with inputs := rest })

/-- The instruction of bits w stored where the next step fetches (log 32): the first word at PC, the second after it. -/
def State.withFetchWord (s : State) (nbits w : Nat) : State :=
  storeWords (readyToFetch s) (BitVec.ofNat 16 (w % 2 ^ nbits)) (BitVec.ofNat 16 (w % 2 ^ nbits / 65536))

end Sys2Proof.Machine
end

