-- ==== Sys2Proof/Machine/Run.lean ====
section
/-! DEFINITION. A run of the machine and the ways it ends (70_reset_and_hazards.md rule R541, decision D34). -/

namespace Sys2Proof.Machine

/-- The ways a run ends (R541). -/
inductive RunEnd where
  /-- (a) a model-level outcome of R501; the state is the one it is raised in, none of the instruction's effects applied -/
  | stopped (f : Fault) (s : State)
  /-- (b) `Halted(state)` -/
  | halted (s : State)
  /-- (c) `StillRunning(state)`: the step budget ran out -/
  | stillRunning (s : State)
  /-- an instruction without a meaning; there is none, and no run ends so -/
  | unmodelled (r : Refusal) (s : State)
  deriving DecidableEq, Repr

/-- Whether the input is a reset (R540). -/
def Input.isReset : Input → Bool
  | .reset _ => true
  | .quiet | .request _ | .withdraw _ | .device _ | .external _ _ => false

/-- Whether a source asks now, or is still going to by the inputs (log 34). -/
def asksEver (s : State) (src : IrqSource) : Bool :=
  s.requests.contains src.name || s.inputs.contains (.request src.name)

/-- Whether a source that asks ends halt mode: it is eligible (R504), or wakes without an entry (R509). MIE does not change in
halt mode but by an entry or a reset. -/
def endsHalt (s : State) (src : IrqSource) : Bool :=
  src.cls == .nonMaskable || s.mie || s.params.haltWakeIgnoresMie

/-- R541 (b): the core is halted, no reset is going to come, and no source can ever become eligible: HALTED = 1 for ever. -/
def State.isTerminal (s : State) : Bool :=
  s.halted && !s.inputs.any Input.isReset && s.params.irq.all fun src => !(endsHalt s src && asksEver s src)

/-- The run with a budget of steps (R541). -/
def runFor : Nat → State → RunEnd
  | 0, s => if s.isTerminal then .halted s else .stillRunning s
  | n + 1, s =>
    if s.isTerminal then .halted s
    else
      match step s with
      | .next t => runFor n t
      | .fault f => .stopped f s
      | .refused r => .unmodelled r s

/-- The state after that many steps, where none of them stops. -/
def afterSteps : Nat → State → Option State
  | 0, s => some s
  | n + 1, s =>
    match step s with
    | .next t => afterSteps n t
    | .fault _ | .refused _ => none

end Sys2Proof.Machine
end

