-- ==== Sys2Proof/Safety.lean ====
section
/-! DEFINITION. The terms in which statements speak: reading an address without the access's effect on a device, which
accesses the machine admits, what a data-memory instruction leaves behind, and the invariant every step keeps. Nothing
here is part of the machine. -/

namespace Sys2Proof.Machine

/-! ### Data memory as statements see it -/

/-- The nibble a read of a data address returns (R80), without the read's effect on a device. -/
def State.peek (s : State) (a : DataAddr) : Nibble :=
  match dmCell a with
  | .ram => Mem.read dmFill s.dm a.toNat
  | .periph => Config.periphRead s.dev a
  | .reg r => s.coreGet r

/-- Whether a data address answers: RAM in RAM_IMPL, a peripheral SFR in PERIPH, every core register (R80, R81). -/
def State.accessible (s : State) (a : DataAddr) : Bool :=
  match dmCell a with
  | .ram => inRanges s.params.ramImpl a.toNat
  | .periph => inRanges s.params.periph a.toNat
  | .reg _ => true

/-- The state after a write to a data address that answers (R81). -/
def State.poke (s : State) (a : DataAddr) (v : Nibble) : State :=
  match dmCell a with
  | .ram => { s with dm := Mem.write dmFill s.dm a.toNat v }
  | .periph => { s with dev := Config.periphAfterWrite s.dev a v }
  | .reg r => s.coreSet r v

/-- The outcome of an access to a data address that does not answer (R80, R81). -/
def noAnswer (a : DataAddr) : Fault :=
  if a.toNat < 0x0F2 then .unimplementedSFR a else .unimplementedDM a

/-- 000H..0F1H (R80). -/
def isPeriph (a : DataAddr) : Bool := decide (a.toNat < 0x0F2)

/-- 0F7H, 0F8H and 0FFH (R36). -/
def isReadOnly (a : DataAddr) : Bool := a == 0x0F7#12 || a == 0x0F8#12 || a == 0x0FF#12

/-- The device after a read of an address. -/
def devRead (dev : Nat) (a : DataAddr) : Nat := if isPeriph a then Config.periphAfterRead dev a else dev

/-- The device after a write to an address. -/
def devWrite (dev : Nat) (a : DataAddr) (v : Nibble) : Nat :=
  if isPeriph a then Config.periphAfterWrite dev a v else dev

/-- The device after the accesses of a one-nibble instruction: a read, if there is one, then a write, if there is one. -/
def devAfter (reads : Bool) (store : Option Nibble) (dev : Nat) (a : DataAddr) : Nat :=
  match store with
  | none => if reads then devRead dev a else dev
  | some v => devWrite (if reads then devRead dev a else dev) a v

/-- The byte of external memory at an address. -/
def State.xmPeek (s : State) (a : Word) : Byte := Mem.read xmFill s.xm a.toNat

/-- The word of program memory at an address. -/
def State.pmPeek (s : State) (a : Word) : Word := Mem.read pmFill s.pm a.toNat

/-! ### The invariant -/

/-- What holds in every state a run reaches: the three memories in canonical form and inside their spaces (R71, R75, R76),
the parameters as R6 and R503 admit them, and no interrupt source asking twice. -/
structure Invariant (s : State) : Prop where
  pm : Mem.wf pmFill 0 0x10000 s.pm = true
  dm : Mem.wf dmFill 0x100 0x1000 s.dm = true
  xm : Mem.wf xmFill 0 0x10000 s.xm = true
  params : s.params.wf = true
  requests : s.requests.Nodup

/-! ### Frames -/

/-- What no instruction but a call, a return, PUSH, EI, DI, HALT and MSA writes, beside memory and the registers that have
a data address. -/
structure CoreKept (s t : State) : Prop where
  mie : t.mie = s.mie
  sp : t.sp = s.sp
  callStack : t.callStack = s.callStack
  regStack : t.regStack = s.regStack
  mieSaved : t.mieSaved = s.mieSaved
  halted : t.halted = s.halted
  pm : t.pm = s.pm
  melodyStart : t.melodyStart = s.melodyStart
  requests : t.requests = s.requests
  inputs : t.inputs = s.inputs
  params : t.params = s.params

/-- The operand is a `+` form on this pair. -/
def Obj.increments (o : Obj) (p : Pair) : Bool :=
  match o with
  | .ind i => i.post && decide (i.ptr.pair = p)
  | _ => false

/-- The address is one of a register pair that the operand increments. -/
def Obj.movesRegAt (o : Obj) (a : DataAddr) : Bool :=
  (o.increments .hl && isPairReg .hl a) || (o.increments .xy && isPairReg .xy a)

/-- The case R93 prohibits: a `+` operand that addresses 0F9H..0FEH (U1). -/
def prohibitedPost (o : Obj) (a : DataAddr) : Bool := o.isPost && isPointerReg a

/-- What a one-nibble instruction (R200) with effect `e` leaves behind, away from the prohibited case: A, C and Z; the
nibble stored at the effective address, unless it is read-only; the pair of a `+` operand raised by 1, with G; the device
as the accesses leave it; PC; and everything else as it was. -/
structure NibbleDone (reads : Bool) (o : Obj) (e : Effect) (s t : State) : Prop where
  a : t.a = e.a
  c : t.c = e.c
  z : t.z = e.z
  pc : t.pc = s.pc + 1
  g_plain : o.isPost = false → t.g = s.g
  post : ∀ p, o.increments p = true →
    t.pairValue p = s.pairValue p + 1 ∧ (t.g = true ↔ s.pairValue p = 0xFF#8)
  stored : ∀ v, e.store = some v → isPeriph (effAddr s o) = false → isReadOnly (effAddr s o) = false →
    t.peek (effAddr s o) = v
  frame : ∀ b, isPeriph b = false → (b ≠ effAddr s o ∨ e.store = none ∨ isReadOnly b = true) →
    o.movesRegAt b = false → t.peek b = s.peek b
  dev : t.dev = devAfter reads e.store s.dev (effAddr s o)
  xm : t.xm = s.xm
  draws : t.draws = s.draws
  kept : CoreKept s t

/-- What the prohibited case leaves behind (U1), external memory aside: Y, X, L, H, CBR, EBR, A, Z, C and G hold anything;
all else is as the instruction's rule says. -/
structure Scrambled (len : Word) (s t : State) : Prop where
  pc : t.pc = s.pc + len
  frame : ∀ b, isPeriph b = false → isPointerReg b = false → t.peek b = s.peek b
  kept : CoreKept s t

/-- A state and an operand on which a one-nibble instruction runs by its rule: the invariant holds, the address answers, and
it is not the prohibited case. -/
structure NibbleReady (o : Obj) (s : State) : Prop where
  inv : Invariant s
  answers : s.accessible (effAddr s o) = true
  allowed : prohibitedPost o (effAddr s o) = false

/-- Instruction `i` completes, and leaves what a one-nibble instruction with effect `e` of the nibble at its operand
leaves. -/
def NibbleResult (i : Instr) (reads : Bool) (o : Obj) (e : Nibble → Effect) (s : State) : Prop :=
  ∃ t, exec i s = .next t ∧ NibbleDone reads o (e (s.peek (effAddr s o))) s t

/-! ### Two-nibble transfers -/

/-- The second address of a two-nibble transfer (R382): the next one of the bank, or after offset 0FFH what
BYTE_XFER_WRAP = wrap8 or carry12 gives. -/
def SecondNibble (s : State) (ea ea1 : DataAddr) : Prop :=
  (offsetOf ea ≠ 0xFF#8 ∧ ea1 = ea + 1)
    ∨ (offsetOf ea = 0xFF#8 ∧ s.params.byteXferWrap = .wrap8 ∧ ea1 = bankOf ea ++ 0x00#8)
    ∨ (offsetOf ea = 0xFF#8 ∧ s.params.byteXferWrap = .carry12 ∧ ea1 = ea + 1)

/-- What a transfer of byte `b` into data memory leaves behind (R381 to R383), where no `+` operand addresses 0F9H..0FEH and
no nibble goes to a register of the incremented pair: low nibble at ea, high nibble at ea1, unless read-only, and anything
in an addressed register of R94; the pair of a `+` operand raised by 2, with G; A, C and Z as they were. -/
structure ByteLoaded (o : Ind) (ea ea1 : DataAddr) (b : Byte) (len : Word) (s t : State) : Prop where
  a : t.a = s.a
  c : t.c = s.c
  z : t.z = s.z
  pc : t.pc = s.pc + len
  g_plain : o.post = false → t.g = s.g
  post : o.post = true → t.pairValue o.ptr.pair = s.pairValue o.ptr.pair + 2
    ∧ (t.g = true ↔ 0xFF < (s.pairValue o.ptr.pair).toNat + 2)
  low : isPeriph ea = false → isReadOnly ea = false → isUndefinedDest ea = false → t.peek ea = b.extractLsb' 0 4
  high : isPeriph ea1 = false → isReadOnly ea1 = false → isUndefinedDest ea1 = false → t.peek ea1 = b.extractLsb' 4 4
  frame : ∀ d, isPeriph d = false → ((d ≠ ea ∧ d ≠ ea1) ∨ isReadOnly d = true) →
    (Obj.ind o).movesRegAt d = false → t.peek d = s.peek d
  dev : t.dev = devWrite (devWrite s.dev ea (b.extractLsb' 0 4)) ea1 (b.extractLsb' 4 4)
  xm : t.xm = s.xm
  draws : isUndefinedDest ea = false → isUndefinedDest ea1 = false → t.draws = s.draws
  kept : CoreKept s t

/-- What a transfer out of data memory to external address `dst` leaves behind (R381, R391), away from the prohibited case:
one byte, the nibble at ea1 above the nibble at ea; data memory and A, C, Z as they were; the pair of a `+` operand raised
by 2, with G. -/
structure ByteStored (o : Ind) (ea ea1 : DataAddr) (dst : Word) (len : Word) (s t : State) : Prop where
  a : t.a = s.a
  c : t.c = s.c
  z : t.z = s.z
  pc : t.pc = s.pc + len
  g_plain : o.post = false → t.g = s.g
  post : o.post = true → t.pairValue o.ptr.pair = s.pairValue o.ptr.pair + 2
    ∧ (t.g = true ↔ 0xFF < (s.pairValue o.ptr.pair).toNat + 2)
  byte : t.xmPeek dst = ({ s with dev := devRead s.dev ea } : State).peek ea1 ++ s.peek ea
  xmFrame : ∀ d, d ≠ dst → t.xmPeek d = s.xmPeek d
  frame : ∀ d, isPeriph d = false → (Obj.ind o).movesRegAt d = false → t.peek d = s.peek d
  dev : t.dev = devRead (devRead s.dev ea) ea1
  draws : t.draws = s.draws
  kept : CoreKept s t

/-- A state and an operand on which a transfer into data memory runs by its rule: besides the two addresses answering and
the prohibited case being excluded, no nibble goes to a register of the pair that the operand increments (U2, log 10). -/
structure ByteReady (o : Ind) (ea1 : DataAddr) (s : State) : Prop where
  inv : Invariant s
  second : SecondNibble s (ptrAddr s o.ptr) ea1
  answers : s.accessible (ptrAddr s o.ptr) = true
  answers1 : s.accessible ea1 = true
  allowed : prohibitedPost (.ind o) (ptrAddr s o.ptr) = false

/-- No nibble of the transfer goes to a register of the pair that the operand increments (U2, log 10). -/
def pairSafe (o : Ind) (ea1 : DataAddr) : Bool := !(o.post && isPairReg o.ptr.pair ea1)

/-- `d` is the first address of a two-nibble transfer that does not answer (R381: ea first, then ea1). -/
def FirstSilent (s : State) (ea ea1 d : DataAddr) : Prop :=
  (s.accessible ea = false ∧ d = ea) ∨ (s.accessible ea = true ∧ s.accessible ea1 = false ∧ d = ea1)

/-- Instruction `i` completes and has brought byte `b` into data memory. -/
def ByteLoadResult (i : Instr) (o : Ind) (ea1 : DataAddr) (b : Byte) (len : Word) (s : State) : Prop :=
  ∃ t, exec i s = .next t ∧ ByteLoaded o (ptrAddr s o.ptr) ea1 b len s t

/-- Instruction `i` completes and has taken a byte out of data memory. -/
def ByteStoreResult (i : Instr) (o : Ind) (ea1 : DataAddr) (dst : Word) (len : Word) (s : State) : Prop :=
  ∃ t, exec i s = .next t ∧ ByteStored o (ptrAddr s o.ptr) ea1 dst len s t

/-! ### Branches -/

/-- The state after a conditional branch (R436): only PC changes, to NextPC plus the signed displacement when taken, to
NextPC when not. -/
def State.branched (s : State) (taken : Bool) (d : BitVec 8) : State :=
  { s with pc := if taken then BitVec.ofInt 16 (s.pc.toNat + 1 + d.toInt) else BitVec.ofNat 16 (s.pc.toNat + 1) }

/-! ### Stacks -/

/-- A call or an interrupt entry finds a level (R35, D13). -/
def State.callRoom (s : State) : Prop := s.sp ≠ 0x1F#5 ∨ s.params.stackWrap = .wrap

/-- A return finds a level (R35, D13). -/
def State.callLevel (s : State) : Prop := s.sp ≠ 0x00#5 ∨ s.params.stackWrap = .wrap

/-- A PUSH finds a level (R35, D14). -/
def State.regRoom (s : State) : Prop := s.rsp ≠ 0xF#4 ∨ s.params.stackWrap = .wrap

/-- A POP finds a level (R35, D14). -/
def State.regLevel (s : State) : Prop := s.rsp ≠ 0x0#4 ∨ s.params.stackWrap = .wrap

/-- The call stack with the level SP points at written. -/
def State.withCallLevel (s : State) (v : Word) : State :=
  { s with callStack := s.callStack.set s.sp.toNat v s.sp.isLt, sp := s.sp + 1 }

/-- The call-stack level below SP, which a return reads. -/
def State.topCall (s : State) : Word := s.callStack[(s.sp - 1).toNat]'(s.sp - 1).isLt

/-- The register-stack level below RSP, which a POP reads. -/
def State.topFrame (s : State) : Frame := s.regStack[(s.rsp - 1).toNat]'(s.rsp - 1).isLt

/-! ### Encodings as the tables write them -/

/-- The mode field mm of a pointer (table of R124). -/
def modeBits (p : Ptr) : BitVec 2 :=
  match p.bank, p.pair with
  | .cbr, .hl => 0b10
  | .cbr, .xy => 0b11
  | .ebr, .hl => 0b00
  | .ebr, .xy => 0b01

/-- `0000 0ggg 00mm pooo` (R131). -/
def patternInd (ggg ooo : BitVec 3) (o : Ind) : Word :=
  0b00000#5 ++ ggg ++ 0b00#2 ++ modeBits o.ptr ++ BitVec.ofBool o.post ++ ooo

/-- `0000 0xxp yymm iiii` (R132). -/
def patternIndi (xx yy : BitVec 2) (i : Nibble) (o : Ind) : Word :=
  0b00000#5 ++ xx ++ BitVec.ofBool o.post ++ yy ++ modeBits o.ptr ++ i

/-- `0000 1cc a7 s a6..a0` (R129). -/
def patternBr8 (cc : BitVec 2) (s : BitVec 1) (d : BitVec 8) : Word :=
  0b00001#5 ++ cc ++ d.extractLsb' 7 1 ++ s ++ d.extractLsb' 0 7

/-- The operate instructions of format OP8 with oooo, and of format IND with ggg and ooo (R126, R131). -/
def PatternOp8 (mk : SfrObj → Instr) (oooo : BitVec 4) (ggg ooo : BitVec 3) : Prop :=
  (∀ r, encode (mk (.sfr r)) = [0b0010#4 ++ oooo ++ r])
    ∧ (∀ r, encode (mk (.cur r)) = [0b0011#4 ++ oooo ++ r])
    ∧ ∀ o, encode (mk (.ind o)) = [patternInd ggg ooo o]

/-- The instructions of format IMM8 with tttt, and of format INDI with xx and yy (R127, R132). -/
def PatternImm8 (mk : CurObj → Nibble → Instr) (tttt : BitVec 4) (xx yy : BitVec 2) : Prop :=
  (∀ r i, encode (mk (.cur r) i) = [tttt ++ i ++ r]) ∧ ∀ o i, encode (mk (.ind o) i) = [patternIndi xx yy i o]

/-! ### Conditional branches -/

/-- A conditional branch (R436): its word, and what it does on a condition read at its start. -/
def BranchOn (mk : BitVec 8 → Instr) (cc : BitVec 2) (s : BitVec 1) (cond : State → Bool) : Prop :=
  ∀ d, encode (mk d) = [patternBr8 cc s d] ∧ ∀ t : State, exec (mk d) t = .next (t.branched (cond t) d)

/-! ### Boundaries -/

/-- The state in which the core acts in a step from `s`: no event of the outside is waiting (log 13). -/
def CoreActs (s u : State) : Prop :=
  (s.inputs = [] ∧ u = s) ∨ ∃ rest, s.inputs = .quiet :: rest ∧ u = { s with inputs := rest }

/-! ### Runs -/

/-- Halt mode with nothing that could end it: the core is halted and a step changes nothing any more (D34, U20). A loop of
one instruction is not stuck: its core is not halted (R541). -/
def State.stuck (s : State) : Prop := s.halted = true ∧ step s = .next s

end Sys2Proof.Machine
end

