-- ==== Sys2Proof/Certificates/Slice0/Obligations.lean ====
section
/-! DEFINITION. The statements for the provers. Those about one instruction say where it completes, its result and its
frame; the machine's choices where the spec leaves something open are named by their log entry. -/

open Sys2Proof Sys2Proof.Machine

/-! ### Encoding and decoding -/

/-- Decoding the words of a well-formed instruction gives that instruction, a second spelling its primary instruction
(R141, R143); after a one-word instruction any word may follow. -/
def Obligations.DecodeOfEncode : Prop :=
  ∀ core i, WellFormed core i = true → ∀ x w rest, encode i = w :: rest →
    decode core w (rest.headD x) = .ok i.primary

/-- The words of a decoded instruction are the words it was decoded from: no two words are one instruction (R141). -/
def Obligations.EncodeOfDecode : Prop :=
  ∀ core w x i, decode core w x = .ok i → encode i = if i.words = 2 then [w, x] else [w]

/-- The two-word instructions are exactly the first words of R121; every other assigned first word is a one-word
instruction. -/
def Obligations.LengthByFirstWord : Prop :=
  ∀ core w x i, decode core w x = .ok i →
    (i.words = 1 ∨ i.words = 2) ∧ (i.words = 2 ↔
      w = 0x0014#16 ∨ w = 0x0015#16 ∨ w = 0x0016#16
        ∨ (∃ (mm : BitVec 2) (p : BitVec 1), w = 0b0000001100#10 ++ mm ++ p ++ 0b100#3)
        ∨ (∃ (mm : BitVec 2) (p : BitVec 1), w = 0b0000001100#10 ++ mm ++ p ++ 0b101#3)
        ∨ (∃ (mm : BitVec 2) (p : BitVec 1), w = 0b0000001111#10 ++ mm ++ p ++ 0b000#3)
        ∨ (∃ (mm : BitVec 2) (p : BitVec 1), w = 0b0000001111#10 ++ mm ++ p ++ 0b001#3))

/-- The first words R142 lists have no instruction on a core, and no others. MODEL'S CHOICE (log 23, decision D2): fetching one
stops the model with UndefinedInstruction and executes nothing. -/
def Obligations.UnassignedWords : Prop :=
  (∀ w x, (∀ i, decode .nX300 w x ≠ .ok i) ↔
    (w = 0x000A#16 ∨ (0x001B ≤ w.toNat ∧ w.toNat ≤ 0x001F) ∨ (0x01D0 ≤ w.toNat ∧ w.toNat ≤ 0x01FF)
      ∨ (0x03C0 ≤ w.toNat ∧ w.toNat ≤ 0x03FF ∧ w.extractLsb' 1 2 ≠ 0b00#2)
      ∨ (0x05C0 ≤ w.toNat ∧ w.toNat ≤ 0x05FF) ∨ (0x07C0 ≤ w.toNat ∧ w.toNat ≤ 0x07FF)))
  ∧ (∀ w x, (∀ i, decode .nX250 w x ≠ .ok i) ↔
    ((∀ i, decode .nX300 w x ≠ .ok i) ∨ w = 0x0005#16 ∨ w = 0x0009#16
      ∨ (0x00C0 ≤ w.toNat ∧ w.toNat ≤ 0x00FF) ∨ (0x02C0 ≤ w.toNat ∧ w.toNat ≤ 0x02FF)
      ∨ (0x04C0 ≤ w.toNat ∧ w.toNat ≤ 0x04FF) ∨ (0x06C0 ≤ w.toNat ∧ w.toNat ≤ 0x06FF)))
  ∧ ∀ s u, CoreActs s u → acceptedSource u = none → u.halted = false → u.pc.toNat < u.params.pmWords →
      (∀ x i, decode u.params.core (u.pmPeek u.pc) x ≠ .ok i) →
      step s = .fault (.undefinedInstruction (u.pmPeek u.pc))

/-- Twenty-one words written out from the spec's encodings, at least one for each format of R126 to R138 and each family of
R144, decode to the instructions they stand for on the nX-4/300, a bit instruction to its primary one; and the word of MMOV is
refused on the nX-4/250. -/
def Obligations.DecodeSanity : Prop :=
  ∀ x : Word,
    decode .nX300 0xC326 x = .ok (.movObjA (.direct 0x326))
    ∧ decode .nX300 0x0328 x = .ok (.movAObj (.ind ⟨⟨.cbr, .hl⟩, true⟩))
    ∧ decode .nX300 0x0407 x = .ok (.ror (.ind ⟨⟨.ebr, .hl⟩, false⟩))
    ∧ decode .nX300 0x3032 x = .ok (.inc (.cur 0x32))
    ∧ decode .nX300 0x01CA x = .ok (.movAImm 0xA)
    ∧ decode .nX300 0x4532 x = .ok (.movObjImm (.cur 0x32) 5)
    ∧ decode .nX300 0x1530 x = .ok (.adcj (.cur 0x30) .b10)
    ∧ decode .nX300 0x062B x = .ok (.sbcj (.ind ⟨⟨.cbr, .hl⟩, false⟩) .b6)
    ∧ decode .nX300 0x069F x = .ok (.cmpImm (.ind ⟨⟨.ebr, .xy⟩, false⟩) 0xF)
    ∧ decode .nX300 0x5B10 x = .ok (Instr.bclr (.cur 0x10) 2).primary
    ∧ decode .nX300 0x03A1 x = .ok (.subImm (.ind ⟨⟨.cbr, .hl⟩, true⟩) 1)
    ∧ decode .nX300 0x043B x = .ok (.xorA (.ind ⟨⟨.cbr, .xy⟩, true⟩))
    ∧ decode .nX300 0x02EC x = .ok (.mmov ⟨.cbr, .hl⟩ 0xC 1)
    ∧ decode .nX250 0x02EC x = .error (.notProvided 0x02EC)
    ∧ decode .nX300 0x033C x = .ok (.movhbAbs ⟨⟨.cbr, .xy⟩, true⟩ x)
    ∧ decode .nX300 0x03C1 x = .ok (.movxbStoreAbs x ⟨⟨.ebr, .hl⟩, false⟩)
    ∧ decode .nX300 0x0012 x = .ok .popHL
    ∧ decode .nX300 0x0003 x = .ok .fclrC
    ∧ decode .nX300 0x08B5 x = .ok (.sjmp 0x35)
    ∧ decode .nX300 0x0BFD x = .ok (.bnc 0xFD)
    ∧ decode .nX300 0xF456 x = .ok (.cal 0x456)
    ∧ decode .nX300 0x022A x = .ok (.movReg .ra2 0xA)

/-- The words of the operate instructions: format OP8 and the IND form of the same instructions (R126, R131). -/
def Obligations.OperateEncodings : Prop :=
  PatternOp8 .inc 0b0000 0b101 0b000 ∧ PatternOp8 .dec 0b0001 0b101 0b001
  ∧ PatternOp8 .rol 0b0010 0b100 0b110 ∧ PatternOp8 .ror 0b0011 0b100 0b111
  ∧ PatternOp8 .addA 0b0100 0b101 0b010 ∧ PatternOp8 .adc 0b0101 0b101 0b011
  ∧ PatternOp8 .adcd 0b0110 0b101 0b100 ∧ PatternOp8 .subA 0b0111 0b101 0b101
  ∧ PatternOp8 .sbc 0b1000 0b101 0b110 ∧ PatternOp8 .sbcd 0b1001 0b101 0b111
  ∧ PatternOp8 .cmpA 0b1010 0b100 0b100 ∧ PatternOp8 .andA 0b1011 0b100 0b001
  ∧ PatternOp8 .orA 0b1100 0b100 0b010 ∧ PatternOp8 .xorA 0b1101 0b100 0b011
  ∧ PatternOp8 .xch 0b1110 0b011 0b001 ∧ PatternOp8 .mtstA 0b1111 0b100 0b101
  ∧ (∀ r, encode (.movObjA (.direct r)) = [0b1100#4 ++ r]) ∧ (∀ r, encode (.movAObj (.direct r)) = [0b1101#4 ++ r])
  ∧ (∀ o, encode (.movObjA (.ind o)) = [patternInd 0b100 0b000 o])
  ∧ (∀ o, encode (.movAObj (.ind o)) = [patternInd 0b011 0b000 o])
  ∧ (∀ o, encode (.movhbRA o) = [patternInd 0b011 0b010 o]) ∧ (∀ o, encode (.movlbRA o) = [patternInd 0b011 0b011 o])
  ∧ (∀ o a, encode (.movhbAbs o a) = [patternInd 0b011 0b100 o, a])
  ∧ (∀ o a, encode (.movlbAbs o a) = [patternInd 0b011 0b101 o, a])
  ∧ (∀ o, encode (.movxbLoadRA o) = [patternInd 0b011 0b110 o])
  ∧ ∀ o, encode (.movxbStoreRA o) = [patternInd 0b011 0b111 o]

/-- The words of the immediate, mask, bit and base instructions, with the coded operands of R139 and R140 (R127, R130, R132
to R134). -/
def Obligations.ImmediateEncodings : Prop :=
  PatternImm8 .movObjImm 0b0100 0b11 0b01 ∧ PatternImm8 .andImm 0b0101 0b10 0b01 ∧ PatternImm8 .orImm 0b0110 0b01 0b01
  ∧ PatternImm8 .xorImm 0b0111 0b00 0b01 ∧ PatternImm8 .addImm 0b1000 0b00 0b10 ∧ PatternImm8 .subImm 0b1001 0b01 0b10
  ∧ PatternImm8 .cmpImm 0b1010 0b11 0b10 ∧ PatternImm8 .mtstImm 0b1011 0b10 0b10
  ∧ (∀ o m, encode (.mclr o m) = encode (.andImm o m)) ∧ (∀ o m, encode (.mset o m) = encode (.orImm o m))
  ∧ (∀ o m, encode (.mnot o m) = encode (.xorImm o m))
  ∧ (∀ o (n : BitVec 2), encode (.bset o n) = encode (.orImm o (BitVec.ofNat 4 (2 ^ n.toNat))))
  ∧ (∀ o (n : BitVec 2), encode (.bnot o n) = encode (.xorImm o (BitVec.ofNat 4 (2 ^ n.toNat))))
  ∧ (∀ o (n : BitVec 2), encode (.btst o n) = encode (.mtstImm o (BitVec.ofNat 4 (2 ^ n.toNat))))
  ∧ (∀ o (n : BitVec 2), encode (.bclr o n) = encode (.andImm o (BitVec.ofNat 4 (15 - 2 ^ n.toNat))))
  ∧ (∀ p m (n : BitVec 2), encode (.mmov p m n) = [0b00000#5 ++ n ++ 0b0#1 ++ 0b11#2 ++ modeBits p ++ m])
  ∧ (∀ p (n1 n2 : BitVec 2), encode (.bmov p n1 n2) = encode (.mmov p (BitVec.ofNat 4 (2 ^ n1.toNat)) n2))
  ∧ (∀ r n, encode (.adcj (.cur r) n) = [0b0001#4 ++ 0b0#1 ++ BitVec.ofNat 3 (n.value / 2) ++ r])
  ∧ (∀ r n, encode (.sbcj (.cur r) n) = [0b0001#4 ++ 0b1#1 ++ BitVec.ofNat 3 (n.value / 2) ++ r])
  ∧ (∀ o n, encode (.adcj (.ind o) n)
      = [0b0000011#7 ++ BitVec.ofBool o.post ++ 0b00#2 ++ modeBits o.ptr ++ 0b0#1 ++ BitVec.ofNat 3 (n.value / 2)])
  ∧ ∀ o n, encode (.sbcj (.ind o) n)
      = [0b0000011#7 ++ BitVec.ofBool o.post ++ 0b00#2 ++ modeBits o.ptr ++ 0b1#1 ++ BitVec.ofNat 3 (n.value / 2)]

/-- The words of the branches, calls, external transfers with an address, register loads and the instructions without an
operand field (R128, R129, R135 to R138). -/
def Obligations.ControlEncodings : Prop :=
  (∀ d, encode (.bng d) = [patternBr8 0b00 0b0 d]) ∧ (∀ d, encode (.sjmp d) = [patternBr8 0b00 0b1 d])
  ∧ (∀ d, encode (.bc d) = [patternBr8 0b01 0b0 d]) ∧ (∀ d, encode (.blt d) = [patternBr8 0b01 0b0 d])
  ∧ (∀ d, encode (.bnc d) = [patternBr8 0b01 0b1 d]) ∧ (∀ d, encode (.bge d) = [patternBr8 0b01 0b1 d])
  ∧ (∀ d, encode (.bz d) = [patternBr8 0b10 0b0 d]) ∧ (∀ d, encode (.beq d) = [patternBr8 0b10 0b0 d])
  ∧ (∀ d, encode (.bnz d) = [patternBr8 0b10 0b1 d]) ∧ (∀ d, encode (.bne d) = [patternBr8 0b10 0b1 d])
  ∧ (∀ d, encode (.ble d) = [patternBr8 0b11 0b0 d]) ∧ (∀ d, encode (.bgt d) = [patternBr8 0b11 0b1 d])
  ∧ (∀ a, encode (.jmp a) = [0b1110#4 ++ a]) ∧ (∀ a, encode (.cal a) = [0b1111#4 ++ a])
  ∧ (∀ o a, encode (.movxbLoadAbs o a)
      = [0b0000001111#10 ++ modeBits o.ptr ++ BitVec.ofBool o.post ++ 0b000#3, a])
  ∧ (∀ a o, encode (.movxbStoreAbs a o)
      = [0b0000001111#10 ++ modeBits o.ptr ++ BitVec.ofBool o.post ++ 0b001#3, a])
  ∧ (∀ i, encode (.movAImm i) = [0x01C#12 ++ i])
  ∧ (∀ i, encode (.movReg .ebr i) = [0x002#12 ++ i]) ∧ (∀ i, encode (.movReg .cbr i) = [0x003#12 ++ i])
  ∧ (∀ i, encode (.movReg .y i) = [0x010#12 ++ i]) ∧ (∀ i, encode (.movReg .x i) = [0x011#12 ++ i])
  ∧ (∀ i, encode (.movReg .l i) = [0x012#12 ++ i]) ∧ (∀ i, encode (.movReg .h i) = [0x013#12 ++ i])
  ∧ (∀ i, encode (.movReg .ra0 i) = [0x020#12 ++ i]) ∧ (∀ i, encode (.movReg .ra1 i) = [0x021#12 ++ i])
  ∧ (∀ i, encode (.movReg .ra2 i) = [0x022#12 ++ i]) ∧ (∀ i, encode (.movReg .ra3 i) = [0x023#12 ++ i])
  ∧ encode .nop = [0x0000] ∧ encode .halt = [0x0001] ∧ encode .fclrG = [0x0002] ∧ encode .fclrC = [0x0003]
  ∧ encode .fclrZ = [0x0004] ∧ encode .fclrFlag = [0x0005] ∧ encode .fsetG = [0x0006] ∧ encode .fsetC = [0x0007]
  ∧ encode .fsetZ = [0x0008] ∧ encode .fsetFlag = [0x0009] ∧ encode .rt = [0x000B] ∧ encode .rti = [0x000C]
  ∧ encode .rtnmi = [0x000D] ∧ encode .ei = [0x000E] ∧ encode .di = [0x000F] ∧ encode .pushHL = [0x0010]
  ∧ encode .pushXY = [0x0011] ∧ encode .popHL = [0x0012] ∧ encode .popXY = [0x0013]
  ∧ (∀ a, encode (.ljmp a) = [0x0014, a]) ∧ (∀ a, encode (.lcal a) = [0x0015, a]) ∧ (∀ a, encode (.msa a) = [0x0016, a])
  ∧ encode .jmpPcA = [0x0017] ∧ encode .incbHL = [0x0018] ∧ encode .incbXY = [0x0019] ∧ encode .incwRA = [0x001A]

/-- A second spelling and its primary instruction are one instruction with one behaviour (R143). -/
def Obligations.SecondSpellings : Prop :=
  ∀ i s, encode i = encode i.primary ∧ exec i s = exec i.primary s

/-! ### Fetch and the step -/

/-- When the words at PC decode to an instruction, and no event waits, no interrupt is accepted and the core is not halted,
the step is that instruction's meaning (R123). MODEL'S CHOICE (log 13): a waiting `quiet` input is consumed, and the meaning
is applied to the state with the rest of the inputs. -/
def Obligations.StepRunsDecoded : Prop :=
  ∀ s u i, CoreActs s u → acceptedSource u = none → u.halted = false →
    u.pc.toNat < u.params.pmWords → (i.words = 2 → (u.pc + 1).toNat < u.params.pmWords) →
    decode u.params.core (u.pmPeek u.pc) (u.pmPeek (u.pc + 1)) = .ok i →
    step s = exec i u

/-- A fetch at an address the device does not implement stops the model (R74, D3; the inputs are log 13). -/
def Obligations.FetchStops : Prop :=
  (∀ s u, CoreActs s u → acceptedSource u = none → u.halted = false → u.params.pmWords ≤ u.pc.toNat →
    step s = .fault (.unimplementedPM u.pc))
  ∧ ∀ s u i, CoreActs s u → acceptedSource u = none → u.halted = false → u.pc.toNat < u.params.pmWords →
    decode u.params.core (u.pmPeek u.pc) (u.pmPeek (u.pc + 1)) = .ok i → i.words = 2 →
    u.params.pmWords ≤ (u.pc + 1).toNat → step s = .fault (.unimplementedPM (u.pc + 1))

/-! ### Addresses and core registers -/

/-- The effective addresses of R84 to R91, as numbers. -/
def Obligations.EffectiveAddresses : Prop :=
  ∀ s : State,
    (∀ r, (effAddr s (.direct r)).toNat = r.toNat)
    ∧ (∀ r, (effAddr s (.sfr r)).toNat = r.toNat)
    ∧ (∀ r, (effAddr s (.cur r)).toNat = s.cbr.toNat * 256 + r.toNat)
    ∧ ∀ post,
      (effAddr s (.ind ⟨⟨.cbr, .hl⟩, post⟩)).toNat = s.cbr.toNat * 256 + s.h.toNat * 16 + s.l.toNat
      ∧ (effAddr s (.ind ⟨⟨.cbr, .xy⟩, post⟩)).toNat = s.cbr.toNat * 256 + s.x.toNat * 16 + s.y.toNat
      ∧ (effAddr s (.ind ⟨⟨.ebr, .hl⟩, post⟩)).toNat = s.ebr.toNat * 256 + s.h.toNat * 16 + s.l.toNat
      ∧ (effAddr s (.ind ⟨⟨.ebr, .xy⟩, post⟩)).toNat = s.ebr.toNat * 256 + s.x.toNat * 16 + s.y.toNat

/-- Data memory reads and writes, address by address (R80, R81): the core registers of Table 1-2 at 0F2H..0FFH, with the
reserved bits reading 1 and the writes of 0F7H, 0F8H and 0FFH dropped; data RAM; and the device's addresses. -/
def Obligations.DataMemoryMap : Prop :=
  ∀ s v,
    (dmRead s 0x0F2 = .ok (s.ra0, s) ∧ dmWrite s 0x0F2 v = .ok { s with ra0 := v })
    ∧ (dmRead s 0x0F3 = .ok (s.ra1, s) ∧ dmWrite s 0x0F3 v = .ok { s with ra1 := v })
    ∧ (dmRead s 0x0F4 = .ok (s.ra2, s) ∧ dmWrite s 0x0F4 v = .ok { s with ra2 := v })
    ∧ (dmRead s 0x0F5 = .ok (s.ra3, s) ∧ dmWrite s 0x0F5 v = .ok { s with ra3 := v })
    ∧ (dmRead s 0x0F6 = .ok (s.rsp, s) ∧ dmWrite s 0x0F6 v = .ok { s with rsp := v })
    ∧ (dmRead s 0x0F7 = .ok (BitVec.ofNat 4 (s.sp.toNat % 16), s) ∧ dmWrite s 0x0F7 v = .ok s)
    ∧ (dmRead s 0x0F8 = .ok (BitVec.ofNat 4 (14 + s.sp.toNat / 16), s) ∧ dmWrite s 0x0F8 v = .ok s)
    ∧ (dmRead s 0x0F9 = .ok (s.y, s) ∧ dmWrite s 0x0F9 v = .ok { s with y := v })
    ∧ (dmRead s 0x0FA = .ok (s.x, s) ∧ dmWrite s 0x0FA v = .ok { s with x := v })
    ∧ (dmRead s 0x0FB = .ok (s.l, s) ∧ dmWrite s 0x0FB v = .ok { s with l := v })
    ∧ (dmRead s 0x0FC = .ok (s.h, s) ∧ dmWrite s 0x0FC v = .ok { s with h := v })
    ∧ (dmRead s 0x0FD = .ok (s.cbr, s) ∧ dmWrite s 0x0FD v = .ok { s with cbr := v })
    ∧ (dmRead s 0x0FE = .ok (s.ebr, s) ∧ dmWrite s 0x0FE v = .ok { s with ebr := v })
    ∧ (dmRead s 0x0FF = .ok (if s.mie then 0xF else 0xE, s) ∧ dmWrite s 0x0FF v = .ok s)
    ∧ (∀ a : DataAddr, 0x100 ≤ a.toNat → inRanges s.params.ramImpl a.toNat = true →
        dmRead s a = .ok (Mem.read dmFill s.dm a.toNat, s)
        ∧ ∃ t, dmWrite s a v = .ok t ∧ t = { s with dm := t.dm }
          ∧ (Invariant s → Mem.read dmFill t.dm a.toNat = v)
          ∧ ∀ b, b ≠ a.toNat → Mem.read dmFill t.dm b = Mem.read dmFill s.dm b)
    ∧ (∀ a : DataAddr, 0x100 ≤ a.toNat → inRanges s.params.ramImpl a.toNat = false →
        dmRead s a = .error (.unimplementedDM a) ∧ dmWrite s a v = .error (.unimplementedDM a))
    ∧ (∀ a : DataAddr, a.toNat ≤ 0x0F1 → inRanges s.params.periph a.toNat = true →
        (∃ d, dmRead s a = .ok (Config.periphRead s.dev a, { s with dev := d }))
        ∧ ∃ d, dmWrite s a v = .ok { s with dev := d })
    ∧ ∀ a : DataAddr, a.toNat ≤ 0x0F1 → inRanges s.params.periph a.toNat = false →
        dmRead s a = .error (.unimplementedSFR a) ∧ dmWrite s a v = .error (.unimplementedSFR a)

/-! ### Transfer -/

/-- MOV obj,A stores A and changes no flag but G; MOV A,#i4 and MOV obj,#i4 load A and set Z; MOV A,obj loads A and sets Z
from it; XCH swaps A and obj and changes no flag but G (R201 to R205). -/
def Obligations.TransferResult : Prop :=
  (∀ o s, NibbleReady (dirObj o) s →
    NibbleResult (.movObjA o) false (dirObj o) (fun _ => ⟨some s.a, s.a, s.c, s.z⟩) s)
  ∧ (∀ o i s, NibbleReady (curObj o) s →
    NibbleResult (.movObjImm o i) false (curObj o) (fun _ => ⟨some i, i, s.c, decide (i = 0)⟩) s)
  ∧ (∀ i s, exec (.movAImm i) s = .next { s with a := i, z := decide (i = 0), pc := s.pc + 1 })
  ∧ (∀ o s, NibbleReady (dirObj o) s →
    NibbleResult (.movAObj o) true (dirObj o) (fun v => ⟨none, v, s.c, decide (v = 0)⟩) s)
  ∧ ∀ o s, NibbleReady (sfrObj o) s →
    NibbleResult (.xch o) true (sfrObj o) (fun v => ⟨some s.a, v, s.c, s.z⟩) s

/-! ### Rotate, increment, decrement -/

/-- ROL and ROR rotate the nibble through C, as numbers (R230, R231); INC and DEC: the result goes to obj and A, C and Z as
R232 and R233 say. -/
def Obligations.RotateIncDecResult : Prop :=
  (∀ o s, NibbleReady (sfrObj o) s →
    NibbleResult (.rol o) true (sfrObj o) (fun v =>
      let r := BitVec.ofNat 4 (2 * v.toNat + s.c.toNat)
      ⟨some r, r, decide (8 ≤ v.toNat), decide (r = 0)⟩) s)
  ∧ (∀ o s, NibbleReady (sfrObj o) s →
    NibbleResult (.ror o) true (sfrObj o) (fun v =>
      let r := BitVec.ofNat 4 (8 * s.c.toNat + v.toNat / 2)
      ⟨some r, r, decide (v.toNat % 2 = 1), decide (r = 0)⟩) s)
  ∧ (∀ o s, NibbleReady (sfrObj o) s →
    NibbleResult (.inc o) true (sfrObj o) (fun v => ⟨some (v + 1), v + 1, decide (v = 0xF), decide (v = 0xF)⟩) s)
  ∧ ∀ o s, NibbleReady (sfrObj o) s →
    NibbleResult (.dec o) true (sfrObj o) (fun v => ⟨some (v - 1), v - 1, decide (v = 0), decide (v = 1)⟩) s

/-! ### Arithmetic -/

/-- ADD and ADC: the sum modulo 16 to obj and A; C is the sum passing 0FH, Z the stored nibble being 0 (R261 to R263). -/
def Obligations.AddResult : Prop :=
  let add := fun (v b : Nibble) (cin : Bool) =>
    let n := v.toNat + b.toNat + cin.toNat
    let r := BitVec.ofNat 4 n
    (⟨some r, r, decide (15 < n), decide (r = 0)⟩ : Effect)
  (∀ o s, NibbleReady (sfrObj o) s → NibbleResult (.addA o) true (sfrObj o) (fun v => add v s.a false) s)
  ∧ (∀ o i s, NibbleReady (curObj o) s → NibbleResult (.addImm o i) true (curObj o) (fun v => add v i false) s)
  ∧ ∀ o s, NibbleReady (sfrObj o) s → NibbleResult (.adc o) true (sfrObj o) (fun v => add v s.a s.c) s

/-- SUB and SBC: obj minus the other operand, modulo 16, to obj and A; C is the borrow, Z the stored nibble being 0 (R266 to
R268). -/
def Obligations.SubResult : Prop :=
  let sub := fun (v b : Nibble) (cin : Bool) =>
    let r := v - b - BitVec.ofNat 4 cin.toNat
    (⟨some r, r, decide (v.toNat < b.toNat + cin.toNat), decide (r = 0)⟩ : Effect)
  (∀ o s, NibbleReady (sfrObj o) s → NibbleResult (.subA o) true (sfrObj o) (fun v => sub v s.a false) s)
  ∧ (∀ o i s, NibbleReady (curObj o) s → NibbleResult (.subImm o i) true (curObj o) (fun v => sub v i false) s)
  ∧ ∀ o s, NibbleReady (sfrObj o) s → NibbleResult (.sbc o) true (sfrObj o) (fun v => sub v s.a s.c) s

/-- ADCD and SBCD: a sum above 9 has 6 added and carries, a borrow has 0AH added (R264, R269). -/
def Obligations.DecimalResult : Prop :=
  (∀ o s, NibbleReady (sfrObj o) s →
    NibbleResult (.adcd o) true (sfrObj o) (fun v =>
      let n := v.toNat + s.a.toNat + s.c.toNat
      let r := BitVec.ofNat 4 (if 9 < n then n + 6 else n)
      ⟨some r, r, decide (9 < n), decide (r = 0)⟩) s)
  ∧ ∀ o s, NibbleReady (sfrObj o) s →
    NibbleResult (.sbcd o) true (sfrObj o) (fun v =>
      let d := v - s.a - BitVec.ofNat 4 s.c.toNat
      let borrow := decide (v.toNat < s.a.toNat + s.c.toNat)
      let r := if borrow then d + 0xA else d
      ⟨some r, r, borrow, decide (r = 0)⟩) s

/-- On decimal digits ADCD and SBCD are decimal: ten times the carry out and the digit stored are the sum, and the digit
stored is the difference with ten lent when there is a borrow (R264, R269). -/
def Obligations.DecimalDigits : Prop :=
  ∀ o s, NibbleReady (sfrObj o) s → (s.peek (effAddr s (sfrObj o))).toNat ≤ 9 → s.a.toNat ≤ 9 →
    (∃ t, exec (.adcd o) s = .next t ∧ t.a.toNat ≤ 9
      ∧ 10 * t.c.toNat + t.a.toNat = (s.peek (effAddr s (sfrObj o))).toNat + s.a.toNat + s.c.toNat)
    ∧ ∃ t, exec (.sbcd o) s = .next t ∧ t.a.toNat ≤ 9
      ∧ (s.peek (effAddr s (sfrObj o))).toNat + 10 * t.c.toNat = t.a.toNat + s.a.toNat + s.c.toNat

/-- ADCJ and SBCJ, under either value of ADCJ_THRESHOLD and SBCJ_ADJUST (R265, R270). -/
def Obligations.BaseResult : Prop :=
  (∀ o n s, NibbleReady (curObj o) s →
    NibbleResult (.adcj o n) true (curObj o) (fun v =>
      let t := v.toNat + s.c.toNat
      let adjusts := if s.params.adcjThreshold = .gt ∧ n.value ≠ 16 then decide (n.value < t) else decide (n.value ≤ t)
      let r := BitVec.ofNat 4 (if adjusts then t + (16 - n.value) else t)
      ⟨some r, r, adjusts, decide (r = 0)⟩) s)
  ∧ ∀ o n s, NibbleReady (curObj o) s →
    NibbleResult (.sbcj o n) true (curObj o) (fun v =>
      let d := v - BitVec.ofNat 4 s.c.toNat
      let borrow := decide (v = 0) && s.c
      let adjusts := if s.params.sbcjAdjust = .borrow then borrow else decide (d = 0xF)
      let r := if adjusts then BitVec.ofNat 4 (15 + n.value) else d
      ⟨some r, r, borrow, decide (r = 0)⟩) s

/-! ### Compare and logical -/

/-- CMP sets Z on equality and C on obj being the smaller, and writes nothing else (R301, R302). -/
def Obligations.CompareResult : Prop :=
  (∀ o s, NibbleReady (sfrObj o) s →
    NibbleResult (.cmpA o) true (sfrObj o) (fun v => ⟨none, s.a, decide (v.toNat < s.a.toNat), decide (v = s.a)⟩) s)
  ∧ ∀ o i s, NibbleReady (curObj o) s →
    NibbleResult (.cmpImm o i) true (curObj o) (fun v => ⟨none, s.a, decide (v.toNat < i.toNat), decide (v = i)⟩) s

/-- AND, OR and XOR, with A and with an immediate: the result goes to obj and A and sets Z; C is unchanged (R303 to
R308). -/
def Obligations.LogicalResult : Prop :=
  let put := fun (s : State) (r : Nibble) => (⟨some r, r, s.c, decide (r = 0)⟩ : Effect)
  (∀ o s, NibbleReady (sfrObj o) s →
    NibbleResult (.andA o) true (sfrObj o) (fun v => put s (v &&& s.a)) s
    ∧ NibbleResult (.orA o) true (sfrObj o) (fun v => put s (v ||| s.a)) s
    ∧ NibbleResult (.xorA o) true (sfrObj o) (fun v => put s (v ^^^ s.a)) s)
  ∧ ∀ o i s, NibbleReady (curObj o) s →
    NibbleResult (.andImm o i) true (curObj o) (fun v => put s (v &&& i)) s
    ∧ NibbleResult (.orImm o i) true (curObj o) (fun v => put s (v ||| i)) s
    ∧ NibbleResult (.xorImm o i) true (curObj o) (fun v => put s (v ^^^ i)) s

/-! ### Mask and bit -/

/-- MCLR keeps the bits of its mask, MSET sets them, MNOT reverses them, and MMOV puts the selected bit of A into them; the
result goes to obj and A and sets Z. MTST sets Z exactly when some bit that the mask selects is 0 in obj, and writes nothing
else (R330 to R336). -/
def Obligations.MaskResult : Prop :=
  let put := fun (s : State) (r : Nibble) => (⟨some r, r, s.c, decide (r = 0)⟩ : Effect)
  let test := fun (v m : Nibble) => (List.range 4).any fun k => m.getLsbD k && !v.getLsbD k
  (∀ o m s, NibbleReady (curObj o) s →
    (∃ r : Nibble → Nibble, (∀ v k, k < 4 → (r v).getLsbD k = if m.getLsbD k then v.getLsbD k else false)
      ∧ NibbleResult (.mclr o m) true (curObj o) (fun v => put s (r v)) s)
    ∧ (∃ r : Nibble → Nibble, (∀ v k, k < 4 → (r v).getLsbD k = if m.getLsbD k then true else v.getLsbD k)
      ∧ NibbleResult (.mset o m) true (curObj o) (fun v => put s (r v)) s)
    ∧ ∃ r : Nibble → Nibble, (∀ v k, k < 4 → (r v).getLsbD k = if m.getLsbD k then !v.getLsbD k else v.getLsbD k)
      ∧ NibbleResult (.mnot o m) true (curObj o) (fun v => put s (r v)) s)
  ∧ (∀ p m (n : BitVec 2) s, NibbleReady (ptrObj p) s →
    ∃ r : Nibble → Nibble,
      (∀ v k, k < 4 → (r v).getLsbD k = if m.getLsbD k then s.a.getLsbD n.toNat else v.getLsbD k)
      ∧ NibbleResult (.mmov p m n) true (ptrObj p) (fun v => put s (r v)) s)
  ∧ (∀ o s, NibbleReady (sfrObj o) s →
    NibbleResult (.mtstA o) true (sfrObj o) (fun v => ⟨none, s.a, s.c, test v s.a⟩) s)
  ∧ ∀ o m s, NibbleReady (curObj o) s →
    NibbleResult (.mtstImm o m) true (curObj o) (fun v => ⟨none, s.a, s.c, test v m⟩) s

/-- BCLR, BSET, BNOT and BMOV change one bit of obj, BMOV to a bit of A; the result goes to obj and A and sets Z, which BSET
leaves 0; BTST sets Z to the complement of the bit (R345 to R352). -/
def Obligations.BitResult : Prop :=
  let put := fun (s : State) (r : Nibble) => (⟨some r, r, s.c, decide (r = 0)⟩ : Effect)
  let only := fun (n : BitVec 2) (b : Nibble → Bool) (r : Nibble → Nibble) =>
    ∀ v k, k < 4 → (r v).getLsbD k = if k = n.toNat then b v else v.getLsbD k
  (∀ o (n : BitVec 2) s, NibbleReady (curObj o) s →
    (∃ r, only n (fun _ => false) r ∧ NibbleResult (.bclr o n) true (curObj o) (fun v => put s (r v)) s)
    ∧ (∃ r, only n (fun _ => true) r
      ∧ NibbleResult (.bset o n) true (curObj o) (fun v => ⟨some (r v), r v, s.c, false⟩) s)
    ∧ (∃ r, only n (fun v => !v.getLsbD n.toNat) r ∧ NibbleResult (.bnot o n) true (curObj o) (fun v => put s (r v)) s)
    ∧ NibbleResult (.btst o n) true (curObj o) (fun v => ⟨none, s.a, s.c, !v.getLsbD n.toNat⟩) s)
  ∧ ∀ p (n1 n2 : BitVec 2) s, NibbleReady (ptrObj p) s →
    ∃ r, only n1 (fun _ => s.a.getLsbD n2.toNat) r
      ∧ NibbleResult (.bmov p n1 n2) true (ptrObj p) (fun v => put s (r v)) s

/-! ### Where one-nibble instructions stop, and the prohibited operand -/

/-- A one-nibble instruction whose address does not answer stops with the outcome of R80 or R81: UnimplementedSFR for
000H..0F1H, UnimplementedMemory for data RAM. -/
def Obligations.DataAccessStops : Prop :=
  (∀ o s, s.accessible (effAddr s (sfrObj o)) = false →
    ∀ i ∈ [Instr.xch o, .rol o, .ror o, .inc o, .dec o, .addA o, .adc o, .adcd o, .subA o, .sbc o, .sbcd o, .cmpA o,
        .andA o, .orA o, .xorA o, .mtstA o],
      exec i s = .fault (noAnswer (effAddr s (sfrObj o))))
  ∧ (∀ o b n (k : BitVec 2) s, s.accessible (effAddr s (curObj o)) = false →
    ∀ i ∈ [Instr.movObjImm o b, .addImm o b, .subImm o b, .adcj o n, .sbcj o n, .cmpImm o b, .andImm o b, .orImm o b,
        .xorImm o b, .mclr o b, .mset o b, .mnot o b, .mtstImm o b, .bclr o k, .bset o k, .bnot o k, .btst o k],
      exec i s = .fault (noAnswer (effAddr s (curObj o))))
  ∧ (∀ o s, s.accessible (effAddr s (dirObj o)) = false →
    ∀ i ∈ [Instr.movObjA o, .movAObj o], exec i s = .fault (noAnswer (effAddr s (dirObj o))))
  ∧ ∀ p m (n n' : BitVec 2) s, s.accessible (effAddr s (ptrObj p)) = false →
    ∀ i ∈ [Instr.mmov p m n, .bmov p n n'], exec i s = .fault (noAnswer (effAddr s (ptrObj p)))

/-- MODEL'S CHOICE (log 9, D22): a `+` operand that addresses 0F9H..0FEH completes; Y, X, L, H, CBR, EBR, A, Z, C and G may
hold anything after it, and nothing else differs from the instruction's rule (R93, U1). -/
def Obligations.ProhibitedPostIncrement : Prop :=
  (∀ o s, Invariant s → prohibitedPost (sfrObj o) (effAddr s (sfrObj o)) = true →
    ∀ i ∈ [Instr.xch o, .rol o, .ror o, .inc o, .dec o, .addA o, .adc o, .adcd o, .subA o, .sbc o, .sbcd o, .cmpA o,
        .andA o, .orA o, .xorA o, .mtstA o],
      ∃ t, exec i s = .next t ∧ Scrambled 1 s t ∧ t.dev = s.dev ∧ t.xm = s.xm)
  ∧ (∀ o b n (k : BitVec 2) s, Invariant s → prohibitedPost (curObj o) (effAddr s (curObj o)) = true →
    ∀ i ∈ [Instr.movObjImm o b, .addImm o b, .subImm o b, .adcj o n, .sbcj o n, .cmpImm o b, .andImm o b, .orImm o b,
        .xorImm o b, .mclr o b, .mset o b, .mnot o b, .mtstImm o b, .bclr o k, .bset o k, .bnot o k, .btst o k],
      ∃ t, exec i s = .next t ∧ Scrambled 1 s t ∧ t.dev = s.dev ∧ t.xm = s.xm)
  ∧ ∀ o s, Invariant s → prohibitedPost (dirObj o) (effAddr s (dirObj o)) = true →
    ∀ i ∈ [Instr.movObjA o, .movAObj o],
      ∃ t, exec i s = .next t ∧ Scrambled 1 s t ∧ t.dev = s.dev ∧ t.xm = s.xm

/-! ### ROM table and external memory -/

/-- MOVHB and MOVLB bring the high or the low byte of a program word, at RA or at the second word, and MOVXB a byte of
external memory, into data memory, low nibble first; an addressed register of R94 may hold anything (R380 to R390). -/
def Obligations.ByteLoadsResult : Prop :=
  ∀ o ea1 s, ByteReady o ea1 s → pairSafe o ea1 = true →
    (s.ra.toNat < s.params.pmWords →
      ByteLoadResult (.movhbRA o) o ea1 ((s.pmPeek s.ra).extractLsb' 8 8) 1 s
      ∧ ByteLoadResult (.movlbRA o) o ea1 ((s.pmPeek s.ra).extractLsb' 0 8) 1 s)
    ∧ (∀ cadr : Word, cadr.toNat < s.params.pmWords →
      ByteLoadResult (.movhbAbs o cadr) o ea1 ((s.pmPeek cadr).extractLsb' 8 8) 2 s
      ∧ ByteLoadResult (.movlbAbs o cadr) o ea1 ((s.pmPeek cadr).extractLsb' 0 8) 2 s)
    ∧ (xmHas s s.ra = true → ByteLoadResult (.movxbLoadRA o) o ea1 (s.xmPeek s.ra) 1 s)
    ∧ ∀ xadr, xmHas s xadr = true → ByteLoadResult (.movxbLoadAbs o xadr) o ea1 (s.xmPeek xadr) 2 s

/-- MOVXB [RA],obj and MOVXB xadr16,obj write one external byte, the nibble at obj+1 above the nibble at obj, and change no
data memory but the pair of a `+` operand (R391, R392). -/
def Obligations.ExternalStoreResult : Prop :=
  ∀ o ea1 s, ByteReady o ea1 s →
    (xmHas s s.ra = true → ByteStoreResult (.movxbStoreRA o) o ea1 s.ra 1 s)
    ∧ ∀ xadr, xmHas s xadr = true → ByteStoreResult (.movxbStoreAbs xadr o) o ea1 xadr 2 s

/-- A byte stored with MOVXB xadr16,obj and loaded back into RAM with MOVXB obj,xadr16 arrives as it was (R381, R390, R392).
MODEL'S CHOICE (log 5, decision D6): external memory is plain memory, so that the byte read is the byte written. -/
def Obligations.ExternalRoundTrip : Prop :=
  ∀ o o' ea1 ea1' s t xadr, ByteReady o ea1 s → xmHas s xadr = true → exec (.movxbStoreAbs xadr o) s = .next t →
    ByteReady o' ea1' t → 0x100 ≤ (ptrAddr s o.ptr).toNat → 0x100 ≤ ea1.toNat →
    0x100 ≤ (ptrAddr t o'.ptr).toNat → 0x100 ≤ ea1'.toNat →
    ∃ u, exec (.movxbLoadAbs o' xadr) t = .next u
      ∧ u.peek (ptrAddr t o'.ptr) = s.peek (ptrAddr s o.ptr) ∧ u.peek ea1' = s.peek ea1

/-- Where the byte transfers stop: past offset 0FFH under BYTE_XFER_WRAP = fault (R382); where the source or the external
destination is not implemented (R74, R76); where one of the two data addresses does not answer, the first that does not, obj
before obj+1 (R80, R81, R381), for every form, the source of a load being there. -/
def Obligations.ByteTransferStops : Prop :=
  (∀ o a s, s.pairValue o.ptr.pair = 0xFF#8 → s.params.byteXferWrap = .fault →
    ∀ i ∈ [Instr.movhbRA o, .movhbAbs o a, .movlbRA o, .movlbAbs o a, .movxbLoadRA o, .movxbLoadAbs o a, .movxbStoreRA o,
        .movxbStoreAbs a o],
      exec i s = .fault (.byteTransferWrap (ptrAddr s o.ptr)))
  ∧ (∀ o ea1 s, SecondNibble s (ptrAddr s o.ptr) ea1 →
    (s.params.pmWords ≤ s.ra.toNat → exec (.movhbRA o) s = .fault (.unimplementedPM s.ra)
      ∧ exec (.movlbRA o) s = .fault (.unimplementedPM s.ra))
    ∧ (∀ a : Word, s.params.pmWords ≤ a.toNat → exec (.movhbAbs o a) s = .fault (.unimplementedPM a)
      ∧ exec (.movlbAbs o a) s = .fault (.unimplementedPM a))
    ∧ (xmHas s s.ra = false → exec (.movxbLoadRA o) s = .fault (.unimplementedXM s.ra))
    ∧ (∀ a, xmHas s a = false → exec (.movxbLoadAbs o a) s = .fault (.unimplementedXM a))
    ∧ (s.accessible (ptrAddr s o.ptr) = true → s.accessible ea1 = true →
      (xmHas s s.ra = false → exec (.movxbStoreRA o) s = .fault (.unimplementedXM s.ra))
      ∧ ∀ a, xmHas s a = false → exec (.movxbStoreAbs a o) s = .fault (.unimplementedXM a)))
  ∧ ∀ o ea1 s d a, SecondNibble s (ptrAddr s o.ptr) ea1 → FirstSilent s (ptrAddr s o.ptr) ea1 d →
    (∀ i ∈ [Instr.movxbStoreRA o, .movxbStoreAbs a o], exec i s = .fault (noAnswer d))
    ∧ (xmHas s s.ra = true → exec (.movxbLoadRA o) s = .fault (noAnswer d))
    ∧ (xmHas s a = true → exec (.movxbLoadAbs o a) s = .fault (noAnswer d))
    ∧ (s.ra.toNat < s.params.pmWords → ∀ i ∈ [Instr.movhbRA o, .movlbRA o], exec i s = .fault (noAnswer d))
    ∧ (a.toNat < s.params.pmWords → ∀ i ∈ [Instr.movhbAbs o a, .movlbAbs o a], exec i s = .fault (noAnswer d))

/-- MODEL'S CHOICE (logs 9, 10, D22): byte transfers whose `+` operand addresses 0F9H..0FEH complete with the ten items of U1
holding anything; and a transfer that puts its second nibble into a register of the pair it increments completes with that
pair holding anything, G as the pair before the instruction gives it, and A, C and Z as they were (R383, U2). -/
def Obligations.ByteTransferUndefined : Prop :=
  (∀ o ea1 s a, Invariant s → SecondNibble s (ptrAddr s o.ptr) ea1 → prohibitedPost (.ind o) (ptrAddr s o.ptr) = true →
    (a.toNat < s.params.pmWords → ∀ i ∈ [Instr.movhbAbs o a, .movlbAbs o a],
      ∃ t, exec i s = .next t ∧ Scrambled 2 s t ∧ t.dev = s.dev ∧ t.xm = s.xm)
    ∧ (s.ra.toNat < s.params.pmWords → ∀ i ∈ [Instr.movhbRA o, .movlbRA o],
      ∃ t, exec i s = .next t ∧ Scrambled 1 s t ∧ t.dev = s.dev ∧ t.xm = s.xm)
    ∧ (xmHas s a = true → (∃ t, exec (.movxbLoadAbs o a) s = .next t ∧ Scrambled 2 s t ∧ t.dev = s.dev ∧ t.xm = s.xm)
      ∧ ∃ t, exec (.movxbStoreAbs a o) s = .next t ∧ Scrambled 2 s t ∧ t.dev = s.dev
        ∧ t.xmPeek a = s.peek ea1 ++ s.peek (ptrAddr s o.ptr) ∧ ∀ d, d ≠ a → t.xmPeek d = s.xmPeek d)
    ∧ (xmHas s s.ra = true → (∃ t, exec (.movxbLoadRA o) s = .next t ∧ Scrambled 1 s t ∧ t.dev = s.dev ∧ t.xm = s.xm)
      ∧ ∃ t, exec (.movxbStoreRA o) s = .next t ∧ Scrambled 1 s t ∧ t.dev = s.dev
        ∧ t.xmPeek s.ra = s.peek ea1 ++ s.peek (ptrAddr s o.ptr) ∧ ∀ d, d ≠ s.ra → t.xmPeek d = s.xmPeek d))
  ∧ ∀ o ea1 s a, ByteReady o ea1 s → pairSafe o ea1 = false →
    let left := fun (len : Word) (t : State) =>
      t.a = s.a ∧ t.c = s.c ∧ t.z = s.z ∧ t.pc = s.pc + len
      ∧ (t.g = true ↔ 0xFF < (s.pairValue o.ptr.pair).toNat + 2) ∧ t.xm = s.xm ∧ t.dev = s.dev ∧ CoreKept s t
      ∧ ∀ d, isPeriph d = false → d ≠ ptrAddr s o.ptr → isPairReg o.ptr.pair d = false → t.peek d = s.peek d
    (a.toNat < s.params.pmWords → ∀ i ∈ [Instr.movhbAbs o a, .movlbAbs o a], ∃ t, exec i s = .next t ∧ left 2 t)
    ∧ (s.ra.toNat < s.params.pmWords → ∀ i ∈ [Instr.movhbRA o, .movlbRA o], ∃ t, exec i s = .next t ∧ left 1 t)
    ∧ (xmHas s a = true → ∃ t, exec (.movxbLoadAbs o a) s = .next t ∧ left 2 t)
    ∧ (xmHas s s.ra = true → ∃ t, exec (.movxbLoadRA o) s = .next t ∧ left 1 t)

/-! ### Stacks and flags -/

/-- PUSH HL and PUSH XY write the level RSP points at and count RSP up, and stop at the last level under STACK_WRAP = fault;
POP HL and POP XY of a level the matching PUSH wrote restore its registers, flags among them, and erase nothing; nothing
else but PC changes; their words (R410 to R413). -/
def Obligations.PushPopResult : Prop :=
  (encode .pushHL = [0x0010] ∧ encode .pushXY = [0x0011] ∧ encode .popHL = [0x0012] ∧ encode .popXY = [0x0013])
  ∧ (∀ s : State, s.rsp = 0xF#4 → s.params.stackWrap = .fault →
    exec .pushHL s = .fault .stackOverflowRegister ∧ exec .pushXY s = .fault .stackOverflowRegister)
  ∧ (∀ s : State, s.regRoom →
    exec .pushHL s = .next { s with
      regStack := s.regStack.set s.rsp.toNat (.hl s.g s.c s.z s.a s.h s.l) s.rsp.isLt, rsp := s.rsp + 1, pc := s.pc + 1 }
    ∧ exec .pushXY s = .next { s with
      regStack := s.regStack.set s.rsp.toNat (.xy s.ebr s.cbr s.x s.y) s.rsp.isLt, rsp := s.rsp + 1, pc := s.pc + 1 })
  ∧ ∀ s : State, s.regLevel →
    (∀ g c z a h l, s.topFrame = .hl g c z a h l →
      exec .popHL s = .next { s with
        g := g, c := c, z := z, a := a, h := h, l := l, rsp := s.rsp - 1, pc := s.pc + 1 })
    ∧ ∀ ebr cbr x y, s.topFrame = .xy ebr cbr x y →
      exec .popXY s = .next { s with
        ebr := ebr, cbr := cbr, x := x, y := y, rsp := s.rsp - 1, pc := s.pc + 1 }

/-- A POP that does not match its PUSH loads anything into its own destination registers and flags, and changes nothing else
but RSP and PC (R414, D15; the draw is the model's, logs 8 and 11). -/
def Obligations.PopMismatched : Prop :=
  ∀ s : State, s.regLevel →
    ((∀ g c z a h l, s.topFrame ≠ .hl g c z a h l) →
      ∃ t, exec .popHL s = .next t ∧ t = { s with
        g := t.g, c := t.c, z := t.z, a := t.a, h := t.h, l := t.l, draws := t.draws, rsp := s.rsp - 1, pc := s.pc + 1 })
    ∧ ((∀ ebr cbr x y, s.topFrame ≠ .xy ebr cbr x y) →
      ∃ t, exec .popXY s = .next t ∧ t = { s with
        ebr := t.ebr, cbr := t.cbr, x := t.x, y := t.y, draws := t.draws, rsp := s.rsp - 1, pc := s.pc + 1 })

/-- Whatever happens to the registers in between, POP HL after PUSH HL brings back A, H, L and all three flags, and POP XY
after PUSH XY brings back EBR, CBR, X and Y, with RSP as before (R410 to R413). -/
def Obligations.PushPopRoundTrip : Prop :=
  ∀ (s t u : State), s.regRoom → t.params = s.params → u.params = t.params → u.regStack = t.regStack → u.rsp = t.rsp →
    (exec .pushHL s = .next t → ∃ v, exec .popHL u = .next v ∧ v.rsp = s.rsp ∧ v.a = s.a ∧ v.h = s.h ∧ v.l = s.l
      ∧ v.g = s.g ∧ v.c = s.c ∧ v.z = s.z)
    ∧ (exec .pushXY s = .next t → ∃ v, exec .popXY u = .next v ∧ v.rsp = s.rsp ∧ v.ebr = s.ebr ∧ v.cbr = s.cbr
      ∧ v.x = s.x ∧ v.y = s.y)

/-- FCLR and FSET change the flags they name, and PC, and nothing else; their words; FCLR FLAG and FSET FLAG are not on the
nX-4/250 (R416 to R423). -/
def Obligations.FlagResult : Prop :=
  (encode .fclrC = [0x0003] ∧ encode .fclrZ = [0x0004] ∧ encode .fclrG = [0x0002] ∧ encode .fclrFlag = [0x0005]
    ∧ encode .fsetC = [0x0007] ∧ encode .fsetZ = [0x0008] ∧ encode .fsetG = [0x0006] ∧ encode .fsetFlag = [0x0009])
  ∧ (∀ x i, decode .nX250 0x0005 x ≠ .ok i ∧ decode .nX250 0x0009 x ≠ .ok i)
  ∧ ∀ s : State,
    exec .fclrC s = .next { s with c := false, pc := s.pc + 1 }
    ∧ exec .fclrZ s = .next { s with z := false, pc := s.pc + 1 }
    ∧ exec .fclrG s = .next { s with g := false, pc := s.pc + 1 }
    ∧ exec .fclrFlag s = .next { s with z := false, c := false, g := false, pc := s.pc + 1 }
    ∧ exec .fsetC s = .next { s with c := true, pc := s.pc + 1 }
    ∧ exec .fsetZ s = .next { s with z := true, pc := s.pc + 1 }
    ∧ exec .fsetG s = .next { s with g := true, pc := s.pc + 1 }
    ∧ exec .fsetFlag s = .next { s with z := true, c := true, g := true, pc := s.pc + 1 }

/-- Past their limits the stacks stop the model under STACK_WRAP = fault (R35). -/
def Obligations.StackLimits : Prop :=
  ∀ s : State, s.params.stackWrap = .fault →
    (s.sp = 0x1F#5 → ∀ a b, exec (.cal a) s = .fault .stackOverflowCall ∧ exec (.lcal b) s = .fault .stackOverflowCall)
    ∧ (s.sp = 0x00#5 → ∀ i ∈ [Instr.rt, .rti, .rtnmi], exec i s = .fault .stackUnderflowCall)
    ∧ (s.rsp = 0xF#4 → ∀ i ∈ [Instr.pushHL, .pushXY], exec i s = .fault .stackOverflowRegister)
    ∧ (s.rsp = 0x0#4 → ∀ i ∈ [Instr.popHL, .popXY], exec i s = .fault .stackUnderflowRegister)
    ∧ (s.sp = 0x1F#5 → s.inputs = [] → acceptedSource s ≠ none → step s = .fault .stackOverflowCall)

/-! ### Branches, calls, returns -/

/-- LJMP, SJMP and JMP PC+A change PC alone, modulo 2^16; their words (R433 to R435). -/
def Obligations.BranchResult : Prop :=
  ((∀ a, encode (.ljmp a) = [0x0014, a]) ∧ (∀ d, encode (.sjmp d) = [patternBr8 0b00 0b1 d]) ∧ encode .jmpPcA = [0x0017])
  ∧ ∀ s : State,
    (∀ a, exec (.ljmp a) s = .next { s with pc := a })
    ∧ (∀ d, exec (.sjmp d) s = .next { s with pc := BitVec.ofInt 16 (s.pc.toNat + 1 + d.toInt) })
    ∧ exec .jmpPcA s = .next { s with pc := BitVec.ofNat 16 (s.pc.toNat + s.a.toNat + 1) }

/-- A conditional branch changes PC alone: taken, to NextPC plus the signed displacement; not taken, to NextPC; on the
condition its rule names, read at its start (R436, R438 to R444). -/
def Obligations.ConditionalBranchResult : Prop :=
  BranchOn .bc 0b01 0b0 (fun s => s.c) ∧ BranchOn .blt 0b01 0b0 (fun s => s.c)
  ∧ BranchOn .bnc 0b01 0b1 (fun s => !s.c) ∧ BranchOn .bge 0b01 0b1 (fun s => !s.c)
  ∧ BranchOn .bz 0b10 0b0 (fun s => s.z) ∧ BranchOn .beq 0b10 0b0 (fun s => s.z)
  ∧ BranchOn .bnz 0b10 0b1 (fun s => !s.z) ∧ BranchOn .bne 0b10 0b1 (fun s => !s.z)
  ∧ BranchOn .ble 0b11 0b0 (fun s => s.c || s.z) ∧ BranchOn .bgt 0b11 0b1 (fun s => !s.c && !s.z)
  ∧ BranchOn .bng 0b00 0b0 (fun s => !s.g)

/-- After CMP, with A or with an immediate, the branches decide the relation of obj to the other operand as unsigned nibbles:
BLT, BGE, BEQ, BNE, BLE, BGT (R301, R302, R437). -/
def Obligations.CompareThenBranch : Prop :=
  let decides := fun (cmp : Instr) (v b : Nibble) (s : State) =>
    ∃ t, exec cmp s = .next t ∧
      ∀ d i (rel : Prop), (i, rel) ∈ [(Instr.blt d, v.toNat < b.toNat), (.bge d, b.toNat ≤ v.toNat), (.beq d, v = b),
          (.bne d, v ≠ b), (.ble d, v.toNat ≤ b.toNat), (.bgt d, b.toNat < v.toNat)] →
        (rel → exec i t = .next (t.branched true d)) ∧ (¬ rel → exec i t = .next (t.branched false d))
  (∀ o s, NibbleReady (sfrObj o) s → decides (.cmpA o) (s.peek (effAddr s (sfrObj o))) s.a s)
  ∧ ∀ o b s, NibbleReady (curObj o) s → decides (.cmpImm o b) (s.peek (effAddr s (curObj o))) b s

/-- JMP cadr12 and CAL cadr12 keep bits 15..12 of PC; CAL saves its own address in the level SP points at and counts SP up.
At the last word of a page PAGE_BITS_AT_FFF decides: stop, its own page or the next one (R431, R432, R446). -/
def Obligations.PageJumpResult : Prop :=
  ∀ (s : State) (a : BitVec 12) (page : Nibble),
    (s.pc.toNat % 4096 ≠ 4095 ∧ page.toNat = s.pc.toNat / 4096)
      ∨ (s.pc.toNat % 4096 = 4095 ∧ s.params.pageBitsAtFff = .own ∧ page.toNat = s.pc.toNat / 4096)
      ∨ (s.pc.toNat % 4096 = 4095 ∧ s.params.pageBitsAtFff = .next ∧ page.toNat = (s.pc.toNat / 4096 + 1) % 16) →
    exec (.jmp a) s = .next { s with pc := page ++ a }
    ∧ (s.callRoom → exec (.cal a) s = .next { s.withCallLevel s.pc with pc := page ++ a })

/-- At the last word of a page with PAGE_BITS_AT_FFF = refuse, JMP cadr12 and CAL cadr12 stop; MSA without a melody circuit
stops; under HALT_NOP_CHECK = refuse HALT stops before a word that is not NOP, and before the end of program memory, where
its look at the next word finds none (R431, R483, R484, R74, log 19). -/
def Obligations.RefusedPrograms : Prop :=
  ∀ s : State,
    (s.pc.toNat % 4096 = 4095 → s.params.pageBitsAtFff = .refuse → ∀ a,
      exec (.jmp a) s = .fault (.pageEdgeJump s.pc)
      ∧ (s.callRoom → exec (.cal a) s = .fault (.pageEdgeJump s.pc)))
    ∧ (s.params.hasMelody = false → ∀ a, exec (.msa a) s = .fault (.melodyAbsent s.pc))
    ∧ (s.params.haltNopCheck = .refuse → (s.pc + 1).toNat < s.params.pmWords → s.pmPeek (s.pc + 1) ≠ 0x0000#16 →
      exec .halt s = .fault (.haltWithoutNop s.pc))
    ∧ (s.params.haltNopCheck = .refuse → s.params.pmWords ≤ (s.pc + 1).toNat →
      exec .halt s = .fault (.unimplementedPM (s.pc + 1)))

/-- LCAL saves the address of its second word in the level SP points at, counts SP up and goes to its address. RT, RTI and
RTNMI count SP down and go to the level's value plus 1; MIE is kept, set, or restored from MIE_SAVED; the level is not
erased. Without a level, and STACK_WRAP = fault, they stop. Their words (R447, R450 to R455). -/
def Obligations.LongCallAndReturnResult : Prop :=
  ((∀ a, encode (.lcal a) = [0x0015, a]) ∧ encode .rt = [0x000B] ∧ encode .rti = [0x000C] ∧ encode .rtnmi = [0x000D])
  ∧ (∀ s : State, s.params.stackWrap = .fault →
    (s.sp = 0x1F#5 → ∀ a, exec (.lcal a) s = .fault .stackOverflowCall)
    ∧ (s.sp = 0x00#5 → ∀ i ∈ [Instr.rt, .rti, .rtnmi], exec i s = .fault .stackUnderflowCall))
  ∧ (∀ (s : State) (a : Word), s.callRoom → exec (.lcal a) s = .next { s.withCallLevel (s.pc + 1) with pc := a })
  ∧ ∀ s : State, s.callLevel →
    exec .rt s = .next { s with sp := s.sp - 1, pc := s.topCall + 1 }
    ∧ exec .rti s = .next { s with sp := s.sp - 1, pc := s.topCall + 1, mie := true }
    ∧ exec .rtnmi s = .next { s with sp := s.sp - 1, pc := s.topCall + 1, mie := s.mieSaved }

/-- A return that finds SP and the call stack as a call left them resumes right after the call, CAL or LCAL, with SP as
before it (R446 to R451). -/
def Obligations.CallReturnRoundTrip : Prop :=
  ∀ (s t u : State), s.callRoom → u.params = s.params → u.callStack = t.callStack → u.sp = t.sp →
    (∀ a, exec (.cal a) s = .next t → ∃ v, exec .rt u = .next v ∧ v.pc = s.pc + 1 ∧ v.sp = s.sp)
    ∧ ∀ a, exec (.lcal a) s = .next t → ∃ v, exec .rt u = .next v ∧ v.pc = s.pc + 2 ∧ v.sp = s.sp

/-! ### Control -/

/-- MOV reg,#i4 writes the register it names and PC, and no flag; its words (R470). -/
def Obligations.RegisterLoadResult : Prop :=
  (∀ i, encode (.movReg .ebr i) = [0x0020 + i.setWidth 16] ∧ encode (.movReg .cbr i) = [0x0030 + i.setWidth 16]
    ∧ encode (.movReg .y i) = [0x0100 + i.setWidth 16] ∧ encode (.movReg .x i) = [0x0110 + i.setWidth 16]
    ∧ encode (.movReg .l i) = [0x0120 + i.setWidth 16] ∧ encode (.movReg .h i) = [0x0130 + i.setWidth 16]
    ∧ encode (.movReg .ra0 i) = [0x0200 + i.setWidth 16] ∧ encode (.movReg .ra1 i) = [0x0210 + i.setWidth 16]
    ∧ encode (.movReg .ra2 i) = [0x0220 + i.setWidth 16] ∧ encode (.movReg .ra3 i) = [0x0230 + i.setWidth 16])
  ∧ ∀ (s : State) (i : Nibble),
    exec (.movReg .ebr i) s = .next { s with ebr := i, pc := s.pc + 1 }
    ∧ exec (.movReg .cbr i) s = .next { s with cbr := i, pc := s.pc + 1 }
    ∧ exec (.movReg .y i) s = .next { s with y := i, pc := s.pc + 1 }
    ∧ exec (.movReg .x i) s = .next { s with x := i, pc := s.pc + 1 }
    ∧ exec (.movReg .l i) s = .next { s with l := i, pc := s.pc + 1 }
    ∧ exec (.movReg .h i) s = .next { s with h := i, pc := s.pc + 1 }
    ∧ exec (.movReg .ra0 i) s = .next { s with ra0 := i, pc := s.pc + 1 }
    ∧ exec (.movReg .ra1 i) s = .next { s with ra1 := i, pc := s.pc + 1 }
    ∧ exec (.movReg .ra2 i) s = .next { s with ra2 := i, pc := s.pc + 1 }
    ∧ exec (.movReg .ra3 i) s = .next { s with ra3 := i, pc := s.pc + 1 }

/-- INCB raises a pair by 1 modulo 256 and INCW raises RA by 1 modulo 2^16, the carry going from nibble to nibble; G says
whether the result is 0; nothing else but PC changes; their words (R481, R482). -/
def Obligations.IncrementResult : Prop :=
  (encode .incbHL = [0x0018] ∧ encode .incbXY = [0x0019] ∧ encode .incwRA = [0x001A])
  ∧ ∀ s : State,
    (∃ t, exec .incbHL s = .next t ∧ t = { s with h := t.h, l := t.l, g := t.g, pc := s.pc + 1 }
      ∧ t.h.toNat * 16 + t.l.toNat = (s.h.toNat * 16 + s.l.toNat + 1) % 256
      ∧ (t.g = true ↔ s.h = 0xF ∧ s.l = 0xF))
    ∧ (∃ t, exec .incbXY s = .next t ∧ t = { s with x := t.x, y := t.y, g := t.g, pc := s.pc + 1 }
      ∧ t.x.toNat * 16 + t.y.toNat = (s.x.toNat * 16 + s.y.toNat + 1) % 256
      ∧ (t.g = true ↔ s.x = 0xF ∧ s.y = 0xF))
    ∧ ∃ t, exec .incwRA s = .next t
      ∧ t = { s with ra3 := t.ra3, ra2 := t.ra2, ra1 := t.ra1, ra0 := t.ra0, g := t.g, pc := s.pc + 1 }
      ∧ t.ra3.toNat * 4096 + t.ra2.toNat * 256 + t.ra1.toNat * 16 + t.ra0.toNat
        = (s.ra3.toNat * 4096 + s.ra2.toNat * 256 + s.ra1.toNat * 16 + s.ra0.toNat + 1) % 65536
      ∧ (t.g = true ↔ s.ra3 = 0xF ∧ s.ra2 = 0xF ∧ s.ra1 = 0xF ∧ s.ra0 = 0xF)

/-- NOP only moves on; EI sets MIE and DI clears it; HALT before a NOP (or unchecked) enters halt mode with PC at the word
after it; MSA reports its address to the melody hook (R483 to R487). -/
def Obligations.ControlResult : Prop :=
  ∀ s : State,
    exec .nop s = .next { s with pc := s.pc + 1 }
    ∧ exec .ei s = .next { s with mie := true, pc := s.pc + 1 }
    ∧ exec .di s = .next { s with mie := false, pc := s.pc + 1 }
    ∧ (s.params.haltNopCheck = .ignore ∨ ((s.pc + 1).toNat < s.params.pmWords ∧ s.pmPeek (s.pc + 1) = 0x0000#16) →
      exec .halt s = .next { s with halted := true, pc := s.pc + 1 })
    ∧ (s.params.hasMelody = true → ∀ a, exec (.msa a) s = .next { s with melodyStart := some a, pc := s.pc + 2 })

/-! ### Interrupts, halt mode, reset -/

/-- The source accepted at a boundary is one of the table that asks and is non-maskable or finds MIE = 1, and none that is
eligible has a larger priority; when none is eligible, none is accepted (R504, R508). MODEL'S CHOICE (log 14): the larger
number is the higher priority. What the core does when none is accepted is StepRunsDecoded and HaltedStep. -/
def Obligations.AcceptanceRule : Prop :=
  ∀ s : State,
    let may := fun (src : IrqSource) =>
      src ∈ s.params.irq ∧ src.name ∈ s.requests ∧ (src.cls = .nonMaskable ∨ s.mie = true)
    (∀ src, acceptedSource s = some src → may src ∧ ∀ other, may other → other.priority ≤ src.priority)
    ∧ (acceptedSource s = none ↔ ∀ src, ¬ may src)

/-- Entry of a maskable interrupt: the restart address less 1 is saved, MIE cleared, halt mode ended, PC at the handler; no
other register changes; with no free level and STACK_WRAP = fault it stops (R506). MODEL'S CHOICE: the acknowledge of the
request (log 14), and that a waiting `quiet` input is consumed (log 13). -/
def Obligations.MaskableEntry : Prop :=
  ∀ s u src, CoreActs s u → acceptedSource u = some src → src.cls = .maskable →
    (u.callRoom → step s = .next { u.withCallLevel (u.pc - 1) with
      mie := false, halted := false, pc := src.vector,
      requests := if src.ackClears then u.requests.filter (· != src.name) else u.requests })
    ∧ (u.sp = 0x1F#5 → u.params.stackWrap = .fault → step s = .fault .stackOverflowCall)

/-- Entry of a non-maskable interrupt: besides, MIE is copied to MIE_SAVED, and cleared unless NMI_CLEARS_MIE is false (R507,
log 18). MODEL'S CHOICE: the acknowledge of the request (log 14), and that a waiting `quiet` input is consumed (log 13). -/
def Obligations.NonMaskableEntry : Prop :=
  ∀ s u src, CoreActs s u → acceptedSource u = some src → src.cls = .nonMaskable → u.callRoom →
    step s = .next { u.withCallLevel (u.pc - 1) with
      mieSaved := u.mie, mie := if u.params.nmiClearsMie then false else u.mie, halted := false, pc := src.vector,
      requests := if src.ackClears then u.requests.filter (· != src.name) else u.requests }

/-- RTI after a maskable entry, and RTNMI after a non-maskable one, resume at the interrupted instruction with MIE and SP as
at entry, when the handler left the call stack and MIE_SAVED as it found them (R448, R506, R507, R510). -/
def Obligations.InterruptRoundTrip : Prop :=
  ∀ (s t v : State) src, s.inputs = [] → acceptedSource s = some src → step s = .next t →
    v.params = t.params → v.callStack = t.callStack → v.sp = t.sp → v.mieSaved = t.mieSaved →
    (src.cls = .maskable → ∃ w, exec .rti v = .next w ∧ w.pc = s.pc ∧ w.sp = s.sp ∧ w.mie = s.mie)
    ∧ (src.cls = .nonMaskable → ∃ w, exec .rtnmi v = .next w ∧ w.pc = s.pc ∧ w.sp = s.sp ∧ w.mie = s.mie)

/-- In halt mode with no source accepted the core changes nothing; a requested maskable source ends halt mode without an
entry under HALT_WAKE_IGNORES_MIE (R509). With no interrupt source asking, and no event of the outside, halt mode is for
ever: the core is halted and the step gives the same state (R541, D34). The inputs are log 13. -/
def Obligations.HaltedStep : Prop :=
  (∀ s u, CoreActs s u → acceptedSource u = none → u.halted = true →
    step s = .next (if u.params.haltWakeIgnoresMie = true
        ∧ (∃ src ∈ u.params.irq, src.name ∈ u.requests ∧ src.cls = .maskable) then { u with halted := false } else u))
  ∧ ∀ s : State, s.inputs = [] → s.halted = true → (∀ src ∈ s.params.irq, src.name ∉ s.requests) → s.stuck

/-- The state after reset: the items R542 gives a value. -/
def Obligations.ResetValues : Prop :=
  let s := State.reset
  s.a = 0 ∧ s.c = false ∧ s.z = false ∧ s.mie = false ∧ s.h = 0 ∧ s.l = 0 ∧ s.x = 0 ∧ s.y = 0 ∧ s.cbr = 0 ∧ s.ebr = 0
  ∧ s.ra0 = 0 ∧ s.ra1 = 0 ∧ s.ra2 = 0 ∧ s.ra3 = 0 ∧ s.pc = 0x0000#16 ∧ s.sp = 0 ∧ s.rsp = 0 ∧ s.halted = false
  ∧ (∀ a : DataAddr, 0x0F2 ≤ a.toNat → a.toNat ≤ 0x0FF →
      s.peek a = if a = 0x0F8#12 ∨ a = 0x0FF#12 then 0xE#4 else 0x0#4)
  ∧ ∀ i : Fin 16, s.regStack[i] = .unwritten

/-- A reset from outside, at any boundary or while halted (R540): every item that R542 gives a value gets it; the items it
leaves unspecified hold what the outside drew, a RAM nibble drawn twice the later draw (log 29); program memory, external
memory, the device and its requests are not touched (log 29). -/
def Obligations.ExternalReset : Prop :=
  ∀ (s : State) draw rest, s.inputs = .reset draw :: rest →
    ∃ t, step s = .next t
      ∧ t = { State.reset with
          g := draw.g, mieSaved := draw.mieSaved, callStack := draw.callStack, dm := t.dm, dev := s.dev, pm := s.pm,
          xm := s.xm, melodyStart := s.melodyStart, requests := s.requests, inputs := rest, draws := s.draws,
          params := s.params }
      ∧ (∀ a : DataAddr, a ∉ draw.ram.map Prod.fst ∨ a.toNat < 0x100 →
        Mem.read dmFill t.dm a.toNat = Mem.read dmFill s.dm a.toNat)
      ∧ ∀ (a : DataAddr) v, Invariant s → 0x100 ≤ a.toNat → draw.ram.reverse.lookup a = some v →
        Mem.read dmFill t.dm a.toNat = v

/-- MODEL'S CHOICE (log 13): what the other events of the outside do, one a step, the core standing still. -/
def Obligations.OutsideEvents : Prop :=
  ∀ (s : State) rest,
    (∀ n, s.inputs = .request n :: rest → ∃ q, step s = .next { s with inputs := rest, requests := q }
      ∧ ∀ m, m ∈ q ↔ m = n ∨ m ∈ s.requests)
    ∧ (∀ n, s.inputs = .withdraw n :: rest → ∃ q, step s = .next { s with inputs := rest, requests := q }
      ∧ ∀ m, m ∈ q ↔ m ≠ n ∧ m ∈ s.requests)
    ∧ (∀ d, s.inputs = .device d :: rest → step s = .next { s with inputs := rest, dev := d })
    ∧ ∀ a b, s.inputs = .external a b :: rest → ∃ t, step s = .next t ∧ t = { s with inputs := rest, xm := t.xm }
      ∧ (Invariant s → t.xmPeek a = b) ∧ ∀ d, d ≠ a → t.xmPeek d = s.xmPeek d

/-- A run with a budget ends in one of three ways, and never for want of a meaning (R541). A stop: the step at the state it
reports raises that outcome. Halted: the state is halted and stays so for ever, nothing of the core changing (MODEL'S CHOICE,
log 34: no source can become eligible by the requests and inputs of the state). Still running: the budget is used up. HALT
before a NOP with no source asking ends a run as Halted; the loop `SJMP -1` is still running after any budget. -/
def Obligations.RunEnds : Prop :=
  (∀ n s,
    (∀ r u, runFor n s ≠ .unmodelled r u)
    ∧ (∀ f u, runFor n s = .stopped f u → ∃ k, k < n ∧ afterSteps k s = some u ∧ step u = .fault f)
    ∧ (∀ u, runFor n s = .halted u → (∃ k, k ≤ n ∧ afterSteps k s = some u) ∧ u.halted = true
      ∧ ∀ k, ∃ t, afterSteps k u = some t
        ∧ t = { u with inputs := t.inputs, requests := t.requests, dev := t.dev, xm := t.xm })
    ∧ ∀ u, runFor n s = .stillRunning u → afterSteps n s = some u ∧ u.isTerminal = false)
  ∧ ∀ n (s : State), s.inputs = [] → s.halted = false → (∀ src ∈ s.params.irq, src.name ∉ s.requests) →
    s.pc.toNat < s.params.pmWords →
    ((s.pc + 1).toNat < s.params.pmWords → s.pmPeek s.pc = 0x0001#16 → s.pmPeek (s.pc + 1) = 0x0000#16 →
      runFor (n + 1) s = .halted { s with halted := true, pc := s.pc + 1 })
    ∧ (s.pmPeek s.pc = 0x09FF#16 → runFor n s = .stillRunning s)

/-! ### Whole-machine rules -/

/-- Every step keeps the invariant: canonical memories inside their spaces, admissible parameters, no source asking
twice. -/
def Obligations.InvariantKept : Prop :=
  ∀ s t : State, Invariant s → step s = .next t → Invariant t

/-- The invariant holds after reset. -/
def Obligations.InvariantAtReset : Prop := Invariant State.reset

/-- No step writes program memory (R108, R71). MODEL'S CHOICE (log 2): the parameters are a field of State, and no step changes
them either. -/
def Obligations.ProgramMemoryKept : Prop :=
  ∀ s t : State, step s = .next t → t.pm = s.pm ∧ t.params = s.params

/-- MIE changes only by EI, DI, RTI, RTNMI, interrupt entry and reset (R488). -/
def Obligations.MieWriters : Prop :=
  (∀ i s t, exec i s = .next t → t.mie ≠ s.mie → i = .ei ∨ i = .di ∨ i = .rti ∨ i = .rtnmi)
  ∧ ∀ s t : State, step s = .next t → t.mie ≠ s.mie →
    (∃ draw rest, s.inputs = .reset draw :: rest)
    ∨ ∃ u, CoreActs s u ∧ ((∃ src, acceptedSource u = some src)
      ∨ ∃ i, fetch u = .ok i ∧ (i = .ei ∨ i = .di ∨ i = .rti ∨ i = .rtnmi))

/-- SP and the call stack are written by calls and returns, the register stack by PUSH, MIE_SAVED by no instruction, external
memory by MOVXB [RA],obj and MOVXB xadr16,obj, and halt mode is entered by HALT alone (R30, R33, R34, R76, R484). -/
def Obligations.StateWriters : Prop :=
  ∀ i s t, exec i s = .next t →
    (t.sp ≠ s.sp → (∃ a, i = .cal a) ∨ (∃ a, i = .lcal a) ∨ i = .rt ∨ i = .rti ∨ i = .rtnmi)
    ∧ (t.callStack ≠ s.callStack → (∃ a, i = .cal a) ∨ ∃ a, i = .lcal a)
    ∧ (t.regStack ≠ s.regStack → i = .pushHL ∨ i = .pushXY)
    ∧ t.mieSaved = s.mieSaved
    ∧ (t.halted ≠ s.halted → i = .halt)
    ∧ (t.xm ≠ s.xm → (∃ o, i = .movxbStoreRA o) ∨ ∃ a o, i = .movxbStoreAbs a o)
end

