-- ==== Sys2Proof/Laws/Memory.lean ====
section
/-! SUPPORT. The laws of the sparse memories: read after write, the canonical form, and that equal contents are equal
memories. -/

namespace Sys2Proof.Machine

variable {α : Type} [DecidableEq α] {fill : α}

/-- The lower bound of a canonical memory may be lowered. -/
theorem Mem.wf_mono {lo lo' hi : Nat} {m : Mem α} (h : Mem.wf fill lo hi m = true) (hl : lo' ≤ lo) :
    Mem.wf fill lo' hi m = true := by
  cases m with
  | nil => rfl
  | cons e m =>
    simp only [Mem.wf, Bool.and_eq_true, decide_eq_true_eq] at h ⊢
    exact ⟨⟨⟨by omega, h.1.1.2⟩, h.1.2⟩, h.2⟩

/-- Below the bound of a canonical memory nothing is listed. -/
theorem Mem.read_below {lo hi : Nat} {m : Mem α} {a : Nat} (h : Mem.wf fill lo hi m = true) (ha : a < lo) :
    Mem.read fill m a = fill := by
  induction m generalizing lo with
  | nil => rfl
  | cons e m ih =>
    obtain ⟨k, v⟩ := e
    simp only [Mem.wf, Bool.and_eq_true, decide_eq_true_eq] at h
    simp only [Mem.read]
    rw [if_neg (by omega)]
    exact ih h.2 (by omega)

/-- Past the bound of a canonical memory nothing is listed. -/
theorem Mem.read_above {lo hi : Nat} {m : Mem α} {a : Nat} (h : Mem.wf fill lo hi m = true) (ha : hi ≤ a) :
    Mem.read fill m a = fill := by
  induction m generalizing lo with
  | nil => rfl
  | cons e m ih =>
    obtain ⟨k, v⟩ := e
    simp only [Mem.wf, Bool.and_eq_true, decide_eq_true_eq] at h
    simp only [Mem.read]
    rw [if_neg (by omega)]
    exact ih h.2

/-- A write leaves every other address alone, in any memory. -/
theorem Mem.read_write_ne {m : Mem α} {a b : Nat} {v : α} (hb : b ≠ a) :
    Mem.read fill (Mem.write fill m a v) b = Mem.read fill m b := by
  induction m with
  | nil =>
    simp only [Mem.write]
    split <;> simp [Mem.read, Ne.symm hb]
  | cons e m ih =>
    obtain ⟨k, w⟩ := e
    simp only [Mem.write]
    split
    · split <;> simp [Mem.read, Ne.symm hb]
    · split
      · subst_vars
        split <;> simp [Mem.read, Ne.symm hb]
      · simp only [Mem.read, ih]

/-- A read after a write to the same address gives the value written, in a canonical memory. -/
theorem Mem.read_write_same {lo hi : Nat} {m : Mem α} {a : Nat} {v : α} (h : Mem.wf fill lo hi m = true) :
    Mem.read fill (Mem.write fill m a v) a = v := by
  induction m generalizing lo with
  | nil =>
    simp only [Mem.write]
    split <;> simp_all [Mem.read]
  | cons e m ih =>
    obtain ⟨k, w⟩ := e
    simp only [Mem.wf, Bool.and_eq_true, decide_eq_true_eq] at h
    simp only [Mem.write]
    split
    · split
      · rename_i hlt hv
        simp only [Mem.read, if_neg (Nat.ne_of_gt hlt), hv]
        exact Mem.read_below h.2 (by omega)
      · simp [Mem.read]
    · split
      · rename_i heq
        subst heq
        split
        · rename_i hv
          rw [hv]
          exact Mem.read_below h.2 (by omega)
        · simp [Mem.read]
      · rename_i hne
        simp only [Mem.read, if_neg (Ne.symm hne)]
        exact ih h.2

/-- A write inside the bounds keeps the canonical form. -/
theorem Mem.wf_write {lo hi : Nat} {m : Mem α} {a : Nat} {v : α} (h : Mem.wf fill lo hi m = true) (hlo : lo ≤ a)
    (hhi : a < hi) : Mem.wf fill lo hi (Mem.write fill m a v) = true := by
  induction m generalizing lo with
  | nil =>
    simp only [Mem.write]
    split <;> simp_all [Mem.wf]
  | cons e m ih =>
    obtain ⟨k, w⟩ := e
    simp only [Mem.wf, Bool.and_eq_true, decide_eq_true_eq] at h
    obtain ⟨⟨⟨h1, h2⟩, h3⟩, h4⟩ := h
    simp only [Mem.write]
    split
    · split
      · simp [Mem.wf, h1, h2, h3, h4]
      · simp only [Mem.wf, Bool.and_eq_true, decide_eq_true_eq]
        exact ⟨⟨⟨hlo, hhi⟩, by assumption⟩, ⟨⟨by omega, h2⟩, h3⟩, h4⟩
    · split
      · subst_vars
        split
        · exact Mem.wf_mono h4 (by omega)
        · simp only [Mem.wf, Bool.and_eq_true, decide_eq_true_eq]
          exact ⟨⟨⟨hlo, hhi⟩, by assumption⟩, h4⟩
      · simp only [Mem.wf, Bool.and_eq_true, decide_eq_true_eq]
        exact ⟨⟨⟨h1, h2⟩, h3⟩, ih h4 (by omega)⟩

/-- Two canonical memories with the same content at every address are the same list. -/
theorem Mem.eq_of_read_eq {lo hi : Nat} {m n : Mem α} (hm : Mem.wf fill lo hi m = true) (hn : Mem.wf fill lo hi n = true)
    (h : ∀ a, Mem.read fill m a = Mem.read fill n a) : m = n := by
  induction m generalizing lo n with
  | nil =>
    cases n with
    | nil => rfl
    | cons e n =>
      obtain ⟨k, v⟩ := e
      simp only [Mem.wf, Bool.and_eq_true, decide_eq_true_eq] at hn
      have := h k
      simp [Mem.read] at this
      exact absurd this.symm hn.1.2
  | cons e m ih =>
    obtain ⟨k, v⟩ := e
    cases n with
    | nil =>
      simp only [Mem.wf, Bool.and_eq_true, decide_eq_true_eq] at hm
      have := h k
      simp [Mem.read] at this
      exact absurd this hm.1.2
    | cons e' n =>
      obtain ⟨k', v'⟩ := e'
      simp only [Mem.wf, Bool.and_eq_true, decide_eq_true_eq] at hm hn
      have hk : k = k' := by
        rcases Nat.lt_trichotomy k k' with hlt | heq | hgt
        · have := h k
          simp only [Mem.read, if_true, if_neg (Nat.ne_of_gt hlt)] at this
          rw [Mem.read_below hn.2 (by omega)] at this
          exact absurd this hm.1.2
        · exact heq
        · have := h k'
          simp only [Mem.read, if_true, if_neg (Nat.ne_of_gt hgt)] at this
          rw [Mem.read_below hm.2 (by omega)] at this
          exact absurd this.symm hn.1.2
      subst hk
      have hv : v = v' := by simpa [Mem.read] using h k
      subst hv
      congr 1
      refine ih hm.2 hn.2 fun a => ?_
      by_cases ha : k = a
      · subst ha
        rw [Mem.read_below hm.2 (by omega), Mem.read_below hn.2 (by omega)]
      · simpa [Mem.read, ha] using h a

end Sys2Proof.Machine
end

