-- ==== Sys2Proof/Laws/State.lean ====
section
/-! SUPPORT. One lemma per field per update of the state, so that no later proof unfolds a record update. -/

namespace Sys2Proof.Machine

@[simp] theorem State.setPair_a (s : State) (p : Pair) (v : Byte) : (s.setPair p v).a = s.a := by cases p <;> rfl
@[simp] theorem State.setPair_c (s : State) (p : Pair) (v : Byte) : (s.setPair p v).c = s.c := by cases p <;> rfl
@[simp] theorem State.setPair_z (s : State) (p : Pair) (v : Byte) : (s.setPair p v).z = s.z := by cases p <;> rfl
@[simp] theorem State.setPair_g (s : State) (p : Pair) (v : Byte) : (s.setPair p v).g = s.g := by cases p <;> rfl
@[simp] theorem State.setPair_mie (s : State) (p : Pair) (v : Byte) : (s.setPair p v).mie = s.mie := by cases p <;> rfl
@[simp] theorem State.setPair_cbr (s : State) (p : Pair) (v : Byte) : (s.setPair p v).cbr = s.cbr := by cases p <;> rfl
@[simp] theorem State.setPair_ebr (s : State) (p : Pair) (v : Byte) : (s.setPair p v).ebr = s.ebr := by cases p <;> rfl
@[simp] theorem State.setPair_ra0 (s : State) (p : Pair) (v : Byte) : (s.setPair p v).ra0 = s.ra0 := by cases p <;> rfl
@[simp] theorem State.setPair_ra1 (s : State) (p : Pair) (v : Byte) : (s.setPair p v).ra1 = s.ra1 := by cases p <;> rfl
@[simp] theorem State.setPair_ra2 (s : State) (p : Pair) (v : Byte) : (s.setPair p v).ra2 = s.ra2 := by cases p <;> rfl
@[simp] theorem State.setPair_ra3 (s : State) (p : Pair) (v : Byte) : (s.setPair p v).ra3 = s.ra3 := by cases p <;> rfl
@[simp] theorem State.setPair_pc (s : State) (p : Pair) (v : Byte) : (s.setPair p v).pc = s.pc := by cases p <;> rfl
@[simp] theorem State.setPair_sp (s : State) (p : Pair) (v : Byte) : (s.setPair p v).sp = s.sp := by cases p <;> rfl
@[simp] theorem State.setPair_rsp (s : State) (p : Pair) (v : Byte) : (s.setPair p v).rsp = s.rsp := by cases p <;> rfl
@[simp] theorem State.setPair_callStack (s : State) (p : Pair) (v : Byte) : (s.setPair p v).callStack = s.callStack := by cases p <;> rfl
@[simp] theorem State.setPair_regStack (s : State) (p : Pair) (v : Byte) : (s.setPair p v).regStack = s.regStack := by cases p <;> rfl
@[simp] theorem State.setPair_mieSaved (s : State) (p : Pair) (v : Byte) : (s.setPair p v).mieSaved = s.mieSaved := by cases p <;> rfl
@[simp] theorem State.setPair_halted (s : State) (p : Pair) (v : Byte) : (s.setPair p v).halted = s.halted := by cases p <;> rfl
@[simp] theorem State.setPair_dm (s : State) (p : Pair) (v : Byte) : (s.setPair p v).dm = s.dm := by cases p <;> rfl
@[simp] theorem State.setPair_dev (s : State) (p : Pair) (v : Byte) : (s.setPair p v).dev = s.dev := by cases p <;> rfl
@[simp] theorem State.setPair_pm (s : State) (p : Pair) (v : Byte) : (s.setPair p v).pm = s.pm := by cases p <;> rfl
@[simp] theorem State.setPair_xm (s : State) (p : Pair) (v : Byte) : (s.setPair p v).xm = s.xm := by cases p <;> rfl
@[simp] theorem State.setPair_melodyStart (s : State) (p : Pair) (v : Byte) : (s.setPair p v).melodyStart = s.melodyStart := by cases p <;> rfl
@[simp] theorem State.setPair_requests (s : State) (p : Pair) (v : Byte) : (s.setPair p v).requests = s.requests := by cases p <;> rfl
@[simp] theorem State.setPair_inputs (s : State) (p : Pair) (v : Byte) : (s.setPair p v).inputs = s.inputs := by cases p <;> rfl
@[simp] theorem State.setPair_draws (s : State) (p : Pair) (v : Byte) : (s.setPair p v).draws = s.draws := by cases p <;> rfl
@[simp] theorem State.setPair_params (s : State) (p : Pair) (v : Byte) : (s.setPair p v).params = s.params := by cases p <;> rfl

@[simp] theorem State.setRa_a (s : State) (v : Word) : (s.setRa v).a = s.a := rfl
@[simp] theorem State.setRa_c (s : State) (v : Word) : (s.setRa v).c = s.c := rfl
@[simp] theorem State.setRa_z (s : State) (v : Word) : (s.setRa v).z = s.z := rfl
@[simp] theorem State.setRa_g (s : State) (v : Word) : (s.setRa v).g = s.g := rfl
@[simp] theorem State.setRa_mie (s : State) (v : Word) : (s.setRa v).mie = s.mie := rfl
@[simp] theorem State.setRa_h (s : State) (v : Word) : (s.setRa v).h = s.h := rfl
@[simp] theorem State.setRa_l (s : State) (v : Word) : (s.setRa v).l = s.l := rfl
@[simp] theorem State.setRa_x (s : State) (v : Word) : (s.setRa v).x = s.x := rfl
@[simp] theorem State.setRa_y (s : State) (v : Word) : (s.setRa v).y = s.y := rfl
@[simp] theorem State.setRa_cbr (s : State) (v : Word) : (s.setRa v).cbr = s.cbr := rfl
@[simp] theorem State.setRa_ebr (s : State) (v : Word) : (s.setRa v).ebr = s.ebr := rfl
@[simp] theorem State.setRa_ra0 (s : State) (v : Word) : (s.setRa v).ra0 = v.extractLsb' 0 4 := rfl
@[simp] theorem State.setRa_ra1 (s : State) (v : Word) : (s.setRa v).ra1 = v.extractLsb' 4 4 := rfl
@[simp] theorem State.setRa_ra2 (s : State) (v : Word) : (s.setRa v).ra2 = v.extractLsb' 8 4 := rfl
@[simp] theorem State.setRa_ra3 (s : State) (v : Word) : (s.setRa v).ra3 = v.extractLsb' 12 4 := rfl
@[simp] theorem State.setRa_pc (s : State) (v : Word) : (s.setRa v).pc = s.pc := rfl
@[simp] theorem State.setRa_sp (s : State) (v : Word) : (s.setRa v).sp = s.sp := rfl
@[simp] theorem State.setRa_rsp (s : State) (v : Word) : (s.setRa v).rsp = s.rsp := rfl
@[simp] theorem State.setRa_callStack (s : State) (v : Word) : (s.setRa v).callStack = s.callStack := rfl
@[simp] theorem State.setRa_regStack (s : State) (v : Word) : (s.setRa v).regStack = s.regStack := rfl
@[simp] theorem State.setRa_mieSaved (s : State) (v : Word) : (s.setRa v).mieSaved = s.mieSaved := rfl
@[simp] theorem State.setRa_halted (s : State) (v : Word) : (s.setRa v).halted = s.halted := rfl
@[simp] theorem State.setRa_dm (s : State) (v : Word) : (s.setRa v).dm = s.dm := rfl
@[simp] theorem State.setRa_dev (s : State) (v : Word) : (s.setRa v).dev = s.dev := rfl
@[simp] theorem State.setRa_pm (s : State) (v : Word) : (s.setRa v).pm = s.pm := rfl
@[simp] theorem State.setRa_xm (s : State) (v : Word) : (s.setRa v).xm = s.xm := rfl
@[simp] theorem State.setRa_melodyStart (s : State) (v : Word) : (s.setRa v).melodyStart = s.melodyStart := rfl
@[simp] theorem State.setRa_requests (s : State) (v : Word) : (s.setRa v).requests = s.requests := rfl
@[simp] theorem State.setRa_inputs (s : State) (v : Word) : (s.setRa v).inputs = s.inputs := rfl
@[simp] theorem State.setRa_draws (s : State) (v : Word) : (s.setRa v).draws = s.draws := rfl
@[simp] theorem State.setRa_params (s : State) (v : Word) : (s.setRa v).params = s.params := rfl

@[simp] theorem State.setG_a (s : State) (b : Bool) : (s.setG b).a = s.a := rfl
@[simp] theorem State.setG_c (s : State) (b : Bool) : (s.setG b).c = s.c := rfl
@[simp] theorem State.setG_z (s : State) (b : Bool) : (s.setG b).z = s.z := rfl
@[simp] theorem State.setG_g (s : State) (b : Bool) : (s.setG b).g = b := rfl
@[simp] theorem State.setG_mie (s : State) (b : Bool) : (s.setG b).mie = s.mie := rfl
@[simp] theorem State.setG_h (s : State) (b : Bool) : (s.setG b).h = s.h := rfl
@[simp] theorem State.setG_l (s : State) (b : Bool) : (s.setG b).l = s.l := rfl
@[simp] theorem State.setG_x (s : State) (b : Bool) : (s.setG b).x = s.x := rfl
@[simp] theorem State.setG_y (s : State) (b : Bool) : (s.setG b).y = s.y := rfl
@[simp] theorem State.setG_cbr (s : State) (b : Bool) : (s.setG b).cbr = s.cbr := rfl
@[simp] theorem State.setG_ebr (s : State) (b : Bool) : (s.setG b).ebr = s.ebr := rfl
@[simp] theorem State.setG_ra0 (s : State) (b : Bool) : (s.setG b).ra0 = s.ra0 := rfl
@[simp] theorem State.setG_ra1 (s : State) (b : Bool) : (s.setG b).ra1 = s.ra1 := rfl
@[simp] theorem State.setG_ra2 (s : State) (b : Bool) : (s.setG b).ra2 = s.ra2 := rfl
@[simp] theorem State.setG_ra3 (s : State) (b : Bool) : (s.setG b).ra3 = s.ra3 := rfl
@[simp] theorem State.setG_pc (s : State) (b : Bool) : (s.setG b).pc = s.pc := rfl
@[simp] theorem State.setG_sp (s : State) (b : Bool) : (s.setG b).sp = s.sp := rfl
@[simp] theorem State.setG_rsp (s : State) (b : Bool) : (s.setG b).rsp = s.rsp := rfl
@[simp] theorem State.setG_callStack (s : State) (b : Bool) : (s.setG b).callStack = s.callStack := rfl
@[simp] theorem State.setG_regStack (s : State) (b : Bool) : (s.setG b).regStack = s.regStack := rfl
@[simp] theorem State.setG_mieSaved (s : State) (b : Bool) : (s.setG b).mieSaved = s.mieSaved := rfl
@[simp] theorem State.setG_halted (s : State) (b : Bool) : (s.setG b).halted = s.halted := rfl
@[simp] theorem State.setG_dm (s : State) (b : Bool) : (s.setG b).dm = s.dm := rfl
@[simp] theorem State.setG_dev (s : State) (b : Bool) : (s.setG b).dev = s.dev := rfl
@[simp] theorem State.setG_pm (s : State) (b : Bool) : (s.setG b).pm = s.pm := rfl
@[simp] theorem State.setG_xm (s : State) (b : Bool) : (s.setG b).xm = s.xm := rfl
@[simp] theorem State.setG_melodyStart (s : State) (b : Bool) : (s.setG b).melodyStart = s.melodyStart := rfl
@[simp] theorem State.setG_requests (s : State) (b : Bool) : (s.setG b).requests = s.requests := rfl
@[simp] theorem State.setG_inputs (s : State) (b : Bool) : (s.setG b).inputs = s.inputs := rfl
@[simp] theorem State.setG_draws (s : State) (b : Bool) : (s.setG b).draws = s.draws := rfl
@[simp] theorem State.setG_params (s : State) (b : Bool) : (s.setG b).params = s.params := rfl

@[simp] theorem State.setPc_a (s : State) (w : Word) : (s.setPc w).a = s.a := rfl
@[simp] theorem State.setPc_c (s : State) (w : Word) : (s.setPc w).c = s.c := rfl
@[simp] theorem State.setPc_z (s : State) (w : Word) : (s.setPc w).z = s.z := rfl
@[simp] theorem State.setPc_g (s : State) (w : Word) : (s.setPc w).g = s.g := rfl
@[simp] theorem State.setPc_mie (s : State) (w : Word) : (s.setPc w).mie = s.mie := rfl
@[simp] theorem State.setPc_h (s : State) (w : Word) : (s.setPc w).h = s.h := rfl
@[simp] theorem State.setPc_l (s : State) (w : Word) : (s.setPc w).l = s.l := rfl
@[simp] theorem State.setPc_x (s : State) (w : Word) : (s.setPc w).x = s.x := rfl
@[simp] theorem State.setPc_y (s : State) (w : Word) : (s.setPc w).y = s.y := rfl
@[simp] theorem State.setPc_cbr (s : State) (w : Word) : (s.setPc w).cbr = s.cbr := rfl
@[simp] theorem State.setPc_ebr (s : State) (w : Word) : (s.setPc w).ebr = s.ebr := rfl
@[simp] theorem State.setPc_ra0 (s : State) (w : Word) : (s.setPc w).ra0 = s.ra0 := rfl
@[simp] theorem State.setPc_ra1 (s : State) (w : Word) : (s.setPc w).ra1 = s.ra1 := rfl
@[simp] theorem State.setPc_ra2 (s : State) (w : Word) : (s.setPc w).ra2 = s.ra2 := rfl
@[simp] theorem State.setPc_ra3 (s : State) (w : Word) : (s.setPc w).ra3 = s.ra3 := rfl
@[simp] theorem State.setPc_pc (s : State) (w : Word) : (s.setPc w).pc = w := rfl
@[simp] theorem State.setPc_sp (s : State) (w : Word) : (s.setPc w).sp = s.sp := rfl
@[simp] theorem State.setPc_rsp (s : State) (w : Word) : (s.setPc w).rsp = s.rsp := rfl
@[simp] theorem State.setPc_callStack (s : State) (w : Word) : (s.setPc w).callStack = s.callStack := rfl
@[simp] theorem State.setPc_regStack (s : State) (w : Word) : (s.setPc w).regStack = s.regStack := rfl
@[simp] theorem State.setPc_mieSaved (s : State) (w : Word) : (s.setPc w).mieSaved = s.mieSaved := rfl
@[simp] theorem State.setPc_halted (s : State) (w : Word) : (s.setPc w).halted = s.halted := rfl
@[simp] theorem State.setPc_dm (s : State) (w : Word) : (s.setPc w).dm = s.dm := rfl
@[simp] theorem State.setPc_dev (s : State) (w : Word) : (s.setPc w).dev = s.dev := rfl
@[simp] theorem State.setPc_pm (s : State) (w : Word) : (s.setPc w).pm = s.pm := rfl
@[simp] theorem State.setPc_xm (s : State) (w : Word) : (s.setPc w).xm = s.xm := rfl
@[simp] theorem State.setPc_melodyStart (s : State) (w : Word) : (s.setPc w).melodyStart = s.melodyStart := rfl
@[simp] theorem State.setPc_requests (s : State) (w : Word) : (s.setPc w).requests = s.requests := rfl
@[simp] theorem State.setPc_inputs (s : State) (w : Word) : (s.setPc w).inputs = s.inputs := rfl
@[simp] theorem State.setPc_draws (s : State) (w : Word) : (s.setPc w).draws = s.draws := rfl
@[simp] theorem State.setPc_params (s : State) (w : Word) : (s.setPc w).params = s.params := rfl

@[simp] theorem State.setAcz_a (s : State) (n : Nibble) (b d : Bool) : (s.setAcz n b d).a = n := rfl
@[simp] theorem State.setAcz_c (s : State) (n : Nibble) (b d : Bool) : (s.setAcz n b d).c = b := rfl
@[simp] theorem State.setAcz_z (s : State) (n : Nibble) (b d : Bool) : (s.setAcz n b d).z = d := rfl
@[simp] theorem State.setAcz_g (s : State) (n : Nibble) (b d : Bool) : (s.setAcz n b d).g = s.g := rfl
@[simp] theorem State.setAcz_mie (s : State) (n : Nibble) (b d : Bool) : (s.setAcz n b d).mie = s.mie := rfl
@[simp] theorem State.setAcz_h (s : State) (n : Nibble) (b d : Bool) : (s.setAcz n b d).h = s.h := rfl
@[simp] theorem State.setAcz_l (s : State) (n : Nibble) (b d : Bool) : (s.setAcz n b d).l = s.l := rfl
@[simp] theorem State.setAcz_x (s : State) (n : Nibble) (b d : Bool) : (s.setAcz n b d).x = s.x := rfl
@[simp] theorem State.setAcz_y (s : State) (n : Nibble) (b d : Bool) : (s.setAcz n b d).y = s.y := rfl
@[simp] theorem State.setAcz_cbr (s : State) (n : Nibble) (b d : Bool) : (s.setAcz n b d).cbr = s.cbr := rfl
@[simp] theorem State.setAcz_ebr (s : State) (n : Nibble) (b d : Bool) : (s.setAcz n b d).ebr = s.ebr := rfl
@[simp] theorem State.setAcz_ra0 (s : State) (n : Nibble) (b d : Bool) : (s.setAcz n b d).ra0 = s.ra0 := rfl
@[simp] theorem State.setAcz_ra1 (s : State) (n : Nibble) (b d : Bool) : (s.setAcz n b d).ra1 = s.ra1 := rfl
@[simp] theorem State.setAcz_ra2 (s : State) (n : Nibble) (b d : Bool) : (s.setAcz n b d).ra2 = s.ra2 := rfl
@[simp] theorem State.setAcz_ra3 (s : State) (n : Nibble) (b d : Bool) : (s.setAcz n b d).ra3 = s.ra3 := rfl
@[simp] theorem State.setAcz_pc (s : State) (n : Nibble) (b d : Bool) : (s.setAcz n b d).pc = s.pc := rfl
@[simp] theorem State.setAcz_sp (s : State) (n : Nibble) (b d : Bool) : (s.setAcz n b d).sp = s.sp := rfl
@[simp] theorem State.setAcz_rsp (s : State) (n : Nibble) (b d : Bool) : (s.setAcz n b d).rsp = s.rsp := rfl
@[simp] theorem State.setAcz_callStack (s : State) (n : Nibble) (b d : Bool) : (s.setAcz n b d).callStack = s.callStack := rfl
@[simp] theorem State.setAcz_regStack (s : State) (n : Nibble) (b d : Bool) : (s.setAcz n b d).regStack = s.regStack := rfl
@[simp] theorem State.setAcz_mieSaved (s : State) (n : Nibble) (b d : Bool) : (s.setAcz n b d).mieSaved = s.mieSaved := rfl
@[simp] theorem State.setAcz_halted (s : State) (n : Nibble) (b d : Bool) : (s.setAcz n b d).halted = s.halted := rfl
@[simp] theorem State.setAcz_dm (s : State) (n : Nibble) (b d : Bool) : (s.setAcz n b d).dm = s.dm := rfl
@[simp] theorem State.setAcz_dev (s : State) (n : Nibble) (b d : Bool) : (s.setAcz n b d).dev = s.dev := rfl
@[simp] theorem State.setAcz_pm (s : State) (n : Nibble) (b d : Bool) : (s.setAcz n b d).pm = s.pm := rfl
@[simp] theorem State.setAcz_xm (s : State) (n : Nibble) (b d : Bool) : (s.setAcz n b d).xm = s.xm := rfl
@[simp] theorem State.setAcz_melodyStart (s : State) (n : Nibble) (b d : Bool) : (s.setAcz n b d).melodyStart = s.melodyStart := rfl
@[simp] theorem State.setAcz_requests (s : State) (n : Nibble) (b d : Bool) : (s.setAcz n b d).requests = s.requests := rfl
@[simp] theorem State.setAcz_inputs (s : State) (n : Nibble) (b d : Bool) : (s.setAcz n b d).inputs = s.inputs := rfl
@[simp] theorem State.setAcz_draws (s : State) (n : Nibble) (b d : Bool) : (s.setAcz n b d).draws = s.draws := rfl
@[simp] theorem State.setAcz_params (s : State) (n : Nibble) (b d : Bool) : (s.setAcz n b d).params = s.params := rfl

@[simp] theorem State.setReg4_a (s : State) (r : Reg4) (v : Nibble) : (s.setReg4 r v).a = s.a := by cases r <;> rfl
@[simp] theorem State.setReg4_c (s : State) (r : Reg4) (v : Nibble) : (s.setReg4 r v).c = s.c := by cases r <;> rfl
@[simp] theorem State.setReg4_z (s : State) (r : Reg4) (v : Nibble) : (s.setReg4 r v).z = s.z := by cases r <;> rfl
@[simp] theorem State.setReg4_g (s : State) (r : Reg4) (v : Nibble) : (s.setReg4 r v).g = s.g := by cases r <;> rfl
@[simp] theorem State.setReg4_mie (s : State) (r : Reg4) (v : Nibble) : (s.setReg4 r v).mie = s.mie := by cases r <;> rfl
@[simp] theorem State.setReg4_pc (s : State) (r : Reg4) (v : Nibble) : (s.setReg4 r v).pc = s.pc := by cases r <;> rfl
@[simp] theorem State.setReg4_sp (s : State) (r : Reg4) (v : Nibble) : (s.setReg4 r v).sp = s.sp := by cases r <;> rfl
@[simp] theorem State.setReg4_rsp (s : State) (r : Reg4) (v : Nibble) : (s.setReg4 r v).rsp = s.rsp := by cases r <;> rfl
@[simp] theorem State.setReg4_callStack (s : State) (r : Reg4) (v : Nibble) : (s.setReg4 r v).callStack = s.callStack := by cases r <;> rfl
@[simp] theorem State.setReg4_regStack (s : State) (r : Reg4) (v : Nibble) : (s.setReg4 r v).regStack = s.regStack := by cases r <;> rfl
@[simp] theorem State.setReg4_mieSaved (s : State) (r : Reg4) (v : Nibble) : (s.setReg4 r v).mieSaved = s.mieSaved := by cases r <;> rfl
@[simp] theorem State.setReg4_halted (s : State) (r : Reg4) (v : Nibble) : (s.setReg4 r v).halted = s.halted := by cases r <;> rfl
@[simp] theorem State.setReg4_dm (s : State) (r : Reg4) (v : Nibble) : (s.setReg4 r v).dm = s.dm := by cases r <;> rfl
@[simp] theorem State.setReg4_dev (s : State) (r : Reg4) (v : Nibble) : (s.setReg4 r v).dev = s.dev := by cases r <;> rfl
@[simp] theorem State.setReg4_pm (s : State) (r : Reg4) (v : Nibble) : (s.setReg4 r v).pm = s.pm := by cases r <;> rfl
@[simp] theorem State.setReg4_xm (s : State) (r : Reg4) (v : Nibble) : (s.setReg4 r v).xm = s.xm := by cases r <;> rfl
@[simp] theorem State.setReg4_melodyStart (s : State) (r : Reg4) (v : Nibble) : (s.setReg4 r v).melodyStart = s.melodyStart := by cases r <;> rfl
@[simp] theorem State.setReg4_requests (s : State) (r : Reg4) (v : Nibble) : (s.setReg4 r v).requests = s.requests := by cases r <;> rfl
@[simp] theorem State.setReg4_inputs (s : State) (r : Reg4) (v : Nibble) : (s.setReg4 r v).inputs = s.inputs := by cases r <;> rfl
@[simp] theorem State.setReg4_draws (s : State) (r : Reg4) (v : Nibble) : (s.setReg4 r v).draws = s.draws := by cases r <;> rfl
@[simp] theorem State.setReg4_params (s : State) (r : Reg4) (v : Nibble) : (s.setReg4 r v).params = s.params := by cases r <;> rfl

@[simp] theorem State.incPair_a (s : State) (p : Pair) (k : Nat) : (s.incPair p k).a = s.a := by cases p <;> rfl
@[simp] theorem State.incPair_c (s : State) (p : Pair) (k : Nat) : (s.incPair p k).c = s.c := by cases p <;> rfl
@[simp] theorem State.incPair_z (s : State) (p : Pair) (k : Nat) : (s.incPair p k).z = s.z := by cases p <;> rfl
@[simp] theorem State.incPair_g (s : State) (p : Pair) (k : Nat) : (s.incPair p k).g = decide (0xFF < (s.pairValue p).toNat + k) := by cases p <;> rfl
@[simp] theorem State.incPair_mie (s : State) (p : Pair) (k : Nat) : (s.incPair p k).mie = s.mie := by cases p <;> rfl
@[simp] theorem State.incPair_cbr (s : State) (p : Pair) (k : Nat) : (s.incPair p k).cbr = s.cbr := by cases p <;> rfl
@[simp] theorem State.incPair_ebr (s : State) (p : Pair) (k : Nat) : (s.incPair p k).ebr = s.ebr := by cases p <;> rfl
@[simp] theorem State.incPair_ra0 (s : State) (p : Pair) (k : Nat) : (s.incPair p k).ra0 = s.ra0 := by cases p <;> rfl
@[simp] theorem State.incPair_ra1 (s : State) (p : Pair) (k : Nat) : (s.incPair p k).ra1 = s.ra1 := by cases p <;> rfl
@[simp] theorem State.incPair_ra2 (s : State) (p : Pair) (k : Nat) : (s.incPair p k).ra2 = s.ra2 := by cases p <;> rfl
@[simp] theorem State.incPair_ra3 (s : State) (p : Pair) (k : Nat) : (s.incPair p k).ra3 = s.ra3 := by cases p <;> rfl
@[simp] theorem State.incPair_pc (s : State) (p : Pair) (k : Nat) : (s.incPair p k).pc = s.pc := by cases p <;> rfl
@[simp] theorem State.incPair_sp (s : State) (p : Pair) (k : Nat) : (s.incPair p k).sp = s.sp := by cases p <;> rfl
@[simp] theorem State.incPair_rsp (s : State) (p : Pair) (k : Nat) : (s.incPair p k).rsp = s.rsp := by cases p <;> rfl
@[simp] theorem State.incPair_callStack (s : State) (p : Pair) (k : Nat) : (s.incPair p k).callStack = s.callStack := by cases p <;> rfl
@[simp] theorem State.incPair_regStack (s : State) (p : Pair) (k : Nat) : (s.incPair p k).regStack = s.regStack := by cases p <;> rfl
@[simp] theorem State.incPair_mieSaved (s : State) (p : Pair) (k : Nat) : (s.incPair p k).mieSaved = s.mieSaved := by cases p <;> rfl
@[simp] theorem State.incPair_halted (s : State) (p : Pair) (k : Nat) : (s.incPair p k).halted = s.halted := by cases p <;> rfl
@[simp] theorem State.incPair_dm (s : State) (p : Pair) (k : Nat) : (s.incPair p k).dm = s.dm := by cases p <;> rfl
@[simp] theorem State.incPair_dev (s : State) (p : Pair) (k : Nat) : (s.incPair p k).dev = s.dev := by cases p <;> rfl
@[simp] theorem State.incPair_pm (s : State) (p : Pair) (k : Nat) : (s.incPair p k).pm = s.pm := by cases p <;> rfl
@[simp] theorem State.incPair_xm (s : State) (p : Pair) (k : Nat) : (s.incPair p k).xm = s.xm := by cases p <;> rfl
@[simp] theorem State.incPair_melodyStart (s : State) (p : Pair) (k : Nat) : (s.incPair p k).melodyStart = s.melodyStart := by cases p <;> rfl
@[simp] theorem State.incPair_requests (s : State) (p : Pair) (k : Nat) : (s.incPair p k).requests = s.requests := by cases p <;> rfl
@[simp] theorem State.incPair_inputs (s : State) (p : Pair) (k : Nat) : (s.incPair p k).inputs = s.inputs := by cases p <;> rfl
@[simp] theorem State.incPair_draws (s : State) (p : Pair) (k : Nat) : (s.incPair p k).draws = s.draws := by cases p <;> rfl
@[simp] theorem State.incPair_params (s : State) (p : Pair) (k : Nat) : (s.incPair p k).params = s.params := by cases p <;> rfl

@[simp] theorem State.scramble_mie (s : State) : (s.scramble).mie = s.mie := rfl
@[simp] theorem State.scramble_ra0 (s : State) : (s.scramble).ra0 = s.ra0 := rfl
@[simp] theorem State.scramble_ra1 (s : State) : (s.scramble).ra1 = s.ra1 := rfl
@[simp] theorem State.scramble_ra2 (s : State) : (s.scramble).ra2 = s.ra2 := rfl
@[simp] theorem State.scramble_ra3 (s : State) : (s.scramble).ra3 = s.ra3 := rfl
@[simp] theorem State.scramble_pc (s : State) : (s.scramble).pc = s.pc := rfl
@[simp] theorem State.scramble_sp (s : State) : (s.scramble).sp = s.sp := rfl
@[simp] theorem State.scramble_rsp (s : State) : (s.scramble).rsp = s.rsp := rfl
@[simp] theorem State.scramble_callStack (s : State) : (s.scramble).callStack = s.callStack := rfl
@[simp] theorem State.scramble_regStack (s : State) : (s.scramble).regStack = s.regStack := rfl
@[simp] theorem State.scramble_mieSaved (s : State) : (s.scramble).mieSaved = s.mieSaved := rfl
@[simp] theorem State.scramble_halted (s : State) : (s.scramble).halted = s.halted := rfl
@[simp] theorem State.scramble_dm (s : State) : (s.scramble).dm = s.dm := rfl
@[simp] theorem State.scramble_dev (s : State) : (s.scramble).dev = s.dev := rfl
@[simp] theorem State.scramble_pm (s : State) : (s.scramble).pm = s.pm := rfl
@[simp] theorem State.scramble_xm (s : State) : (s.scramble).xm = s.xm := rfl
@[simp] theorem State.scramble_melodyStart (s : State) : (s.scramble).melodyStart = s.melodyStart := rfl
@[simp] theorem State.scramble_requests (s : State) : (s.scramble).requests = s.requests := rfl
@[simp] theorem State.scramble_inputs (s : State) : (s.scramble).inputs = s.inputs := rfl
@[simp] theorem State.scramble_params (s : State) : (s.scramble).params = s.params := rfl

@[simp] theorem State.drawPair_a (s : State) (p : Pair) : (s.drawPair p).a = s.a := by cases p <;> rfl
@[simp] theorem State.drawPair_c (s : State) (p : Pair) : (s.drawPair p).c = s.c := by cases p <;> rfl
@[simp] theorem State.drawPair_z (s : State) (p : Pair) : (s.drawPair p).z = s.z := by cases p <;> rfl
@[simp] theorem State.drawPair_g (s : State) (p : Pair) : (s.drawPair p).g = s.g := by cases p <;> rfl
@[simp] theorem State.drawPair_mie (s : State) (p : Pair) : (s.drawPair p).mie = s.mie := by cases p <;> rfl
@[simp] theorem State.drawPair_cbr (s : State) (p : Pair) : (s.drawPair p).cbr = s.cbr := by cases p <;> rfl
@[simp] theorem State.drawPair_ebr (s : State) (p : Pair) : (s.drawPair p).ebr = s.ebr := by cases p <;> rfl
@[simp] theorem State.drawPair_ra0 (s : State) (p : Pair) : (s.drawPair p).ra0 = s.ra0 := by cases p <;> rfl
@[simp] theorem State.drawPair_ra1 (s : State) (p : Pair) : (s.drawPair p).ra1 = s.ra1 := by cases p <;> rfl
@[simp] theorem State.drawPair_ra2 (s : State) (p : Pair) : (s.drawPair p).ra2 = s.ra2 := by cases p <;> rfl
@[simp] theorem State.drawPair_ra3 (s : State) (p : Pair) : (s.drawPair p).ra3 = s.ra3 := by cases p <;> rfl
@[simp] theorem State.drawPair_pc (s : State) (p : Pair) : (s.drawPair p).pc = s.pc := by cases p <;> rfl
@[simp] theorem State.drawPair_sp (s : State) (p : Pair) : (s.drawPair p).sp = s.sp := by cases p <;> rfl
@[simp] theorem State.drawPair_rsp (s : State) (p : Pair) : (s.drawPair p).rsp = s.rsp := by cases p <;> rfl
@[simp] theorem State.drawPair_callStack (s : State) (p : Pair) : (s.drawPair p).callStack = s.callStack := by cases p <;> rfl
@[simp] theorem State.drawPair_regStack (s : State) (p : Pair) : (s.drawPair p).regStack = s.regStack := by cases p <;> rfl
@[simp] theorem State.drawPair_mieSaved (s : State) (p : Pair) : (s.drawPair p).mieSaved = s.mieSaved := by cases p <;> rfl
@[simp] theorem State.drawPair_halted (s : State) (p : Pair) : (s.drawPair p).halted = s.halted := by cases p <;> rfl
@[simp] theorem State.drawPair_dm (s : State) (p : Pair) : (s.drawPair p).dm = s.dm := by cases p <;> rfl
@[simp] theorem State.drawPair_dev (s : State) (p : Pair) : (s.drawPair p).dev = s.dev := by cases p <;> rfl
@[simp] theorem State.drawPair_pm (s : State) (p : Pair) : (s.drawPair p).pm = s.pm := by cases p <;> rfl
@[simp] theorem State.drawPair_xm (s : State) (p : Pair) : (s.drawPair p).xm = s.xm := by cases p <;> rfl
@[simp] theorem State.drawPair_melodyStart (s : State) (p : Pair) : (s.drawPair p).melodyStart = s.melodyStart := by cases p <;> rfl
@[simp] theorem State.drawPair_requests (s : State) (p : Pair) : (s.drawPair p).requests = s.requests := by cases p <;> rfl
@[simp] theorem State.drawPair_inputs (s : State) (p : Pair) : (s.drawPair p).inputs = s.inputs := by cases p <;> rfl
@[simp] theorem State.drawPair_draws (s : State) (p : Pair) : (s.drawPair p).draws = s.draws + 2 := by cases p <;> rfl
@[simp] theorem State.drawPair_params (s : State) (p : Pair) : (s.drawPair p).params = s.params := by cases p <;> rfl

@[simp] theorem State.coreSet_a (s : State) (r : CoreReg) (v : Nibble) : (s.coreSet r v).a = s.a := by cases r <;> rfl
@[simp] theorem State.coreSet_c (s : State) (r : CoreReg) (v : Nibble) : (s.coreSet r v).c = s.c := by cases r <;> rfl
@[simp] theorem State.coreSet_z (s : State) (r : CoreReg) (v : Nibble) : (s.coreSet r v).z = s.z := by cases r <;> rfl
@[simp] theorem State.coreSet_g (s : State) (r : CoreReg) (v : Nibble) : (s.coreSet r v).g = s.g := by cases r <;> rfl
@[simp] theorem State.coreSet_mie (s : State) (r : CoreReg) (v : Nibble) : (s.coreSet r v).mie = s.mie := by cases r <;> rfl
@[simp] theorem State.coreSet_pc (s : State) (r : CoreReg) (v : Nibble) : (s.coreSet r v).pc = s.pc := by cases r <;> rfl
@[simp] theorem State.coreSet_sp (s : State) (r : CoreReg) (v : Nibble) : (s.coreSet r v).sp = s.sp := by cases r <;> rfl
@[simp] theorem State.coreSet_callStack (s : State) (r : CoreReg) (v : Nibble) : (s.coreSet r v).callStack = s.callStack := by cases r <;> rfl
@[simp] theorem State.coreSet_regStack (s : State) (r : CoreReg) (v : Nibble) : (s.coreSet r v).regStack = s.regStack := by cases r <;> rfl
@[simp] theorem State.coreSet_mieSaved (s : State) (r : CoreReg) (v : Nibble) : (s.coreSet r v).mieSaved = s.mieSaved := by cases r <;> rfl
@[simp] theorem State.coreSet_halted (s : State) (r : CoreReg) (v : Nibble) : (s.coreSet r v).halted = s.halted := by cases r <;> rfl
@[simp] theorem State.coreSet_dm (s : State) (r : CoreReg) (v : Nibble) : (s.coreSet r v).dm = s.dm := by cases r <;> rfl
@[simp] theorem State.coreSet_dev (s : State) (r : CoreReg) (v : Nibble) : (s.coreSet r v).dev = s.dev := by cases r <;> rfl
@[simp] theorem State.coreSet_pm (s : State) (r : CoreReg) (v : Nibble) : (s.coreSet r v).pm = s.pm := by cases r <;> rfl
@[simp] theorem State.coreSet_xm (s : State) (r : CoreReg) (v : Nibble) : (s.coreSet r v).xm = s.xm := by cases r <;> rfl
@[simp] theorem State.coreSet_melodyStart (s : State) (r : CoreReg) (v : Nibble) : (s.coreSet r v).melodyStart = s.melodyStart := by cases r <;> rfl
@[simp] theorem State.coreSet_requests (s : State) (r : CoreReg) (v : Nibble) : (s.coreSet r v).requests = s.requests := by cases r <;> rfl
@[simp] theorem State.coreSet_inputs (s : State) (r : CoreReg) (v : Nibble) : (s.coreSet r v).inputs = s.inputs := by cases r <;> rfl
@[simp] theorem State.coreSet_draws (s : State) (r : CoreReg) (v : Nibble) : (s.coreSet r v).draws = s.draws := by cases r <;> rfl
@[simp] theorem State.coreSet_params (s : State) (r : CoreReg) (v : Nibble) : (s.coreSet r v).params = s.params := by cases r <;> rfl

@[simp] theorem State.loadHL_mie (s : State) (f : Frame) : (s.loadHL f).mie = s.mie := by cases f <;> rfl
@[simp] theorem State.loadHL_x (s : State) (f : Frame) : (s.loadHL f).x = s.x := by cases f <;> rfl
@[simp] theorem State.loadHL_y (s : State) (f : Frame) : (s.loadHL f).y = s.y := by cases f <;> rfl
@[simp] theorem State.loadHL_cbr (s : State) (f : Frame) : (s.loadHL f).cbr = s.cbr := by cases f <;> rfl
@[simp] theorem State.loadHL_ebr (s : State) (f : Frame) : (s.loadHL f).ebr = s.ebr := by cases f <;> rfl
@[simp] theorem State.loadHL_ra0 (s : State) (f : Frame) : (s.loadHL f).ra0 = s.ra0 := by cases f <;> rfl
@[simp] theorem State.loadHL_ra1 (s : State) (f : Frame) : (s.loadHL f).ra1 = s.ra1 := by cases f <;> rfl
@[simp] theorem State.loadHL_ra2 (s : State) (f : Frame) : (s.loadHL f).ra2 = s.ra2 := by cases f <;> rfl
@[simp] theorem State.loadHL_ra3 (s : State) (f : Frame) : (s.loadHL f).ra3 = s.ra3 := by cases f <;> rfl
@[simp] theorem State.loadHL_pc (s : State) (f : Frame) : (s.loadHL f).pc = s.pc := by cases f <;> rfl
@[simp] theorem State.loadHL_sp (s : State) (f : Frame) : (s.loadHL f).sp = s.sp := by cases f <;> rfl
@[simp] theorem State.loadHL_rsp (s : State) (f : Frame) : (s.loadHL f).rsp = s.rsp := by cases f <;> rfl
@[simp] theorem State.loadHL_callStack (s : State) (f : Frame) : (s.loadHL f).callStack = s.callStack := by cases f <;> rfl
@[simp] theorem State.loadHL_regStack (s : State) (f : Frame) : (s.loadHL f).regStack = s.regStack := by cases f <;> rfl
@[simp] theorem State.loadHL_mieSaved (s : State) (f : Frame) : (s.loadHL f).mieSaved = s.mieSaved := by cases f <;> rfl
@[simp] theorem State.loadHL_halted (s : State) (f : Frame) : (s.loadHL f).halted = s.halted := by cases f <;> rfl
@[simp] theorem State.loadHL_dm (s : State) (f : Frame) : (s.loadHL f).dm = s.dm := by cases f <;> rfl
@[simp] theorem State.loadHL_dev (s : State) (f : Frame) : (s.loadHL f).dev = s.dev := by cases f <;> rfl
@[simp] theorem State.loadHL_pm (s : State) (f : Frame) : (s.loadHL f).pm = s.pm := by cases f <;> rfl
@[simp] theorem State.loadHL_xm (s : State) (f : Frame) : (s.loadHL f).xm = s.xm := by cases f <;> rfl
@[simp] theorem State.loadHL_melodyStart (s : State) (f : Frame) : (s.loadHL f).melodyStart = s.melodyStart := by cases f <;> rfl
@[simp] theorem State.loadHL_requests (s : State) (f : Frame) : (s.loadHL f).requests = s.requests := by cases f <;> rfl
@[simp] theorem State.loadHL_inputs (s : State) (f : Frame) : (s.loadHL f).inputs = s.inputs := by cases f <;> rfl
@[simp] theorem State.loadHL_params (s : State) (f : Frame) : (s.loadHL f).params = s.params := by cases f <;> rfl

@[simp] theorem State.loadXY_a (s : State) (f : Frame) : (s.loadXY f).a = s.a := by cases f <;> rfl
@[simp] theorem State.loadXY_c (s : State) (f : Frame) : (s.loadXY f).c = s.c := by cases f <;> rfl
@[simp] theorem State.loadXY_z (s : State) (f : Frame) : (s.loadXY f).z = s.z := by cases f <;> rfl
@[simp] theorem State.loadXY_g (s : State) (f : Frame) : (s.loadXY f).g = s.g := by cases f <;> rfl
@[simp] theorem State.loadXY_mie (s : State) (f : Frame) : (s.loadXY f).mie = s.mie := by cases f <;> rfl
@[simp] theorem State.loadXY_h (s : State) (f : Frame) : (s.loadXY f).h = s.h := by cases f <;> rfl
@[simp] theorem State.loadXY_l (s : State) (f : Frame) : (s.loadXY f).l = s.l := by cases f <;> rfl
@[simp] theorem State.loadXY_ra0 (s : State) (f : Frame) : (s.loadXY f).ra0 = s.ra0 := by cases f <;> rfl
@[simp] theorem State.loadXY_ra1 (s : State) (f : Frame) : (s.loadXY f).ra1 = s.ra1 := by cases f <;> rfl
@[simp] theorem State.loadXY_ra2 (s : State) (f : Frame) : (s.loadXY f).ra2 = s.ra2 := by cases f <;> rfl
@[simp] theorem State.loadXY_ra3 (s : State) (f : Frame) : (s.loadXY f).ra3 = s.ra3 := by cases f <;> rfl
@[simp] theorem State.loadXY_pc (s : State) (f : Frame) : (s.loadXY f).pc = s.pc := by cases f <;> rfl
@[simp] theorem State.loadXY_sp (s : State) (f : Frame) : (s.loadXY f).sp = s.sp := by cases f <;> rfl
@[simp] theorem State.loadXY_rsp (s : State) (f : Frame) : (s.loadXY f).rsp = s.rsp := by cases f <;> rfl
@[simp] theorem State.loadXY_callStack (s : State) (f : Frame) : (s.loadXY f).callStack = s.callStack := by cases f <;> rfl
@[simp] theorem State.loadXY_regStack (s : State) (f : Frame) : (s.loadXY f).regStack = s.regStack := by cases f <;> rfl
@[simp] theorem State.loadXY_mieSaved (s : State) (f : Frame) : (s.loadXY f).mieSaved = s.mieSaved := by cases f <;> rfl
@[simp] theorem State.loadXY_halted (s : State) (f : Frame) : (s.loadXY f).halted = s.halted := by cases f <;> rfl
@[simp] theorem State.loadXY_dm (s : State) (f : Frame) : (s.loadXY f).dm = s.dm := by cases f <;> rfl
@[simp] theorem State.loadXY_dev (s : State) (f : Frame) : (s.loadXY f).dev = s.dev := by cases f <;> rfl
@[simp] theorem State.loadXY_pm (s : State) (f : Frame) : (s.loadXY f).pm = s.pm := by cases f <;> rfl
@[simp] theorem State.loadXY_xm (s : State) (f : Frame) : (s.loadXY f).xm = s.xm := by cases f <;> rfl
@[simp] theorem State.loadXY_melodyStart (s : State) (f : Frame) : (s.loadXY f).melodyStart = s.melodyStart := by cases f <;> rfl
@[simp] theorem State.loadXY_requests (s : State) (f : Frame) : (s.loadXY f).requests = s.requests := by cases f <;> rfl
@[simp] theorem State.loadXY_inputs (s : State) (f : Frame) : (s.loadXY f).inputs = s.inputs := by cases f <;> rfl
@[simp] theorem State.loadXY_params (s : State) (f : Frame) : (s.loadXY f).params = s.params := by cases f <;> rfl

/-- A byte is its two nibbles, the high one above the low one. -/
theorem highNibble_append_lowNibble : ∀ v : Byte, highNibble v ++ lowNibble v = v := by decide

/-- A pair holds what was written to it. -/
@[simp] theorem State.setPair_pairValue (s : State) (p : Pair) (v : Byte) : (s.setPair p v).pairValue p = v := by
  cases p <;> exact highNibble_append_lowNibble v

/-- The nibbles of RA, joined, are the value written to it. -/
@[simp] theorem State.setRa_ra (s : State) (v : Word) : (s.setRa v).ra = v := by
  simp only [State.setRa, State.ra]
  ext i hi
  simp only [BitVec.getElem_append, BitVec.getElem_extractLsb']
  split
  · simp [BitVec.getLsbD_eq_getElem, hi]
  · split
    · simp only [← BitVec.getLsbD_eq_getElem]; congr 1; omega
    · split
      · simp only [← BitVec.getLsbD_eq_getElem]; congr 1; omega
      · simp only [← BitVec.getLsbD_eq_getElem]; congr 1; omega

/-- A pair after an increment (R90). -/
@[simp] theorem State.incPair_pairValue (s : State) (p : Pair) (k : Nat) :
    (s.incPair p k).pairValue p = s.pairValue p + BitVec.ofNat 8 k := by
  cases p <;> exact highNibble_append_lowNibble _

end Sys2Proof.Machine
end

