-- ==== Sys2Proof/Laws/Ops.lean ====
section
/-! SUPPORT. What the shared operations over data memory can do, said once: one equation for a read and one for a write,
and how a read sees every update of the state. -/

namespace Sys2Proof.Machine

/-! ### The address map -/

theorem dmCell_eq_ram_iff : ∀ a : DataAddr, dmCell a = .ram ↔ 0x100 ≤ a.toNat := by decide +kernel

theorem dmCell_eq_periph_iff : ∀ a : DataAddr, dmCell a = .periph ↔ isPeriph a = true := by decide +kernel

/-- A core register has one address: 0F2H + its place in Table 1-2 (R36). -/
def CoreReg.addr : CoreReg → DataAddr
  | .ra0 => 0x0F2
  | .ra1 => 0x0F3
  | .ra2 => 0x0F4
  | .ra3 => 0x0F5
  | .rsp => 0x0F6
  | .spl => 0x0F7
  | .sph => 0x0F8
  | .y => 0x0F9
  | .x => 0x0FA
  | .l => 0x0FB
  | .h => 0x0FC
  | .cbr => 0x0FD
  | .ebr => 0x0FE
  | .mief => 0x0FF

theorem dmCell_addr (r : CoreReg) : dmCell r.addr = .reg r := by cases r <;> rfl

theorem eq_addr_of_dmCell : ∀ a : DataAddr, (match dmCell a with | .reg r => a == r.addr | _ => true) = true := by
  decide +kernel

/-- The address is the one of the register that stands there. -/
theorem dmCell_reg {a : DataAddr} {r : CoreReg} (h : dmCell a = .reg r) : a = r.addr := by
  have := eq_addr_of_dmCell a
  rw [h] at this
  simpa using this

theorem isReadOnly_addr (r : CoreReg) : isReadOnly r.addr = (r == .spl || r == .sph || r == .mief) := by
  cases r <;> rfl

theorem isPeriph_of_reg {a : DataAddr} {r : CoreReg} (h : dmCell a = .reg r) : isPeriph a = false := by
  cases hp : isPeriph a
  · rfl
  · rw [(dmCell_eq_periph_iff a).2 hp] at h; cases h

/-! ### One equation for a read, one for a write -/

theorem dmCell_cases (a : DataAddr) : dmCell a = .ram ∨ dmCell a = .periph ∨ ∃ r, dmCell a = .reg r := by
  cases dmCell a with
  | ram => exact .inl rfl
  | periph => exact .inr (.inl rfl)
  | reg r => exact .inr (.inr ⟨r, rfl⟩)

theorem isPeriph_of_ram {a : DataAddr} (h : dmCell a = .ram) : isPeriph a = false := by
  have := (dmCell_eq_ram_iff a).1 h
  simp only [isPeriph, decide_eq_false_iff_not]; omega

theorem dmRead_eq (s : State) (a : DataAddr) :
    dmRead s a = if s.accessible a then .ok (s.peek a, { s with dev := devRead s.dev a }) else .error (noAnswer a) := by
  obtain hc | hc | ⟨r, hc⟩ := dmCell_cases a
  · have h1 := (dmCell_eq_ram_iff a).1 hc
    have h3 : ¬ a.toNat < 0x0F2 := by omega
    simp [dmRead, State.accessible, State.peek, noAnswer, devRead, hc, isPeriph_of_ram hc, h3]
  · have h2 := (dmCell_eq_periph_iff a).1 hc
    have h3 : a.toNat < 0x0F2 := by simpa [isPeriph] using h2
    simp [dmRead, State.accessible, State.peek, noAnswer, devRead, hc, h2, h3]
  · simp [dmRead, State.accessible, State.peek, devRead, hc, isPeriph_of_reg hc]

theorem dmWrite_eq (s : State) (a : DataAddr) (v : Nibble) :
    dmWrite s a v = if s.accessible a then .ok (s.poke a v) else .error (noAnswer a) := by
  obtain hc | hc | ⟨r, hc⟩ := dmCell_cases a
  · have h1 := (dmCell_eq_ram_iff a).1 hc
    have h3 : ¬ a.toNat < 0x0F2 := by omega
    simp [dmWrite, State.accessible, State.poke, noAnswer, hc, h3]
  · have h2 := (dmCell_eq_periph_iff a).1 hc
    have h3 : a.toNat < 0x0F2 := by simpa [isPeriph] using h2
    simp [dmWrite, State.accessible, State.poke, noAnswer, hc, h3]
  · simp [dmWrite, State.accessible, State.poke, hc]

/-! ### What a read sees -/

@[simp] theorem State.peek_dev (s : State) (d : Nat) (b : DataAddr) (hb : isPeriph b = false) :
    ({ s with dev := d } : State).peek b = s.peek b := by
  have := dmCell_eq_periph_iff b
  simp only [State.peek]
  cases hc : dmCell b with
  | ram => rfl
  | periph => simp [this.1 hc] at hb
  | reg r => cases r <;> rfl

@[simp] theorem State.peek_setPc (s : State) (w : Word) (b : DataAddr) : (s.setPc w).peek b = s.peek b := by
  simp only [State.peek]
  cases dmCell b with
  | ram => rfl
  | periph => rfl
  | reg r => cases r <;> rfl

@[simp] theorem State.peek_setG (s : State) (g : Bool) (b : DataAddr) : (s.setG g).peek b = s.peek b := by
  simp only [State.peek]
  cases dmCell b with
  | ram => rfl
  | periph => rfl
  | reg r => cases r <;> rfl

@[simp] theorem State.peek_setAcz (s : State) (a : Nibble) (c z : Bool) (b : DataAddr) :
    (s.setAcz a c z).peek b = s.peek b := by
  simp only [State.peek]
  cases dmCell b with
  | ram => rfl
  | periph => rfl
  | reg r => cases r <;> rfl

theorem State.peek_draws (s : State) (n : Nat) (b : DataAddr) : ({ s with draws := n } : State).peek b = s.peek b := by
  simp only [State.peek]
  cases dmCell b with
  | ram => rfl
  | periph => rfl
  | reg r => cases r <;> rfl

theorem State.peek_xm (s : State) (m : Mem Byte) (b : DataAddr) : ({ s with xm := m } : State).peek b = s.peek b := by
  simp only [State.peek]
  cases dmCell b with
  | ram => rfl
  | periph => rfl
  | reg r => cases r <;> rfl

/-- A write to a pair is seen at the pair's two addresses only. -/
theorem State.peek_setPair (s : State) (p : Pair) (v : Byte) (b : DataAddr) (hb : isPairReg p b = false) :
    (s.setPair p v).peek b = s.peek b := by
  simp only [State.peek]
  cases hc : dmCell b with
  | ram => cases p <;> rfl
  | periph => cases p <;> rfl
  | reg r =>
    have := dmCell_reg hc
    subst this
    cases p <;> cases r <;> first | rfl | (exact absurd hb (by decide))

theorem State.peek_incPair (s : State) (p : Pair) (k : Nat) (b : DataAddr) (hb : isPairReg p b = false) :
    (s.incPair p k).peek b = s.peek b := by
  rw [State.incPair, State.peek_setG, State.peek_setPair s p _ b hb]

/-- The ten draws of U1 are seen at 0F9H..0FEH only. -/
theorem State.peek_scramble (s : State) (b : DataAddr) (hb : isPointerReg b = false) :
    s.scramble.peek b = s.peek b := by
  simp only [State.peek]
  cases hc : dmCell b with
  | ram => rfl
  | periph => rfl
  | reg r =>
    have := dmCell_reg hc
    subst this
    cases r <;> first | rfl | (exact absurd hb (by decide))

/-! ### What a write does -/

/-- A write is read back, unless the address is read-only or a device's (R37, R81). -/
theorem State.peek_poke_same (s : State) (a : DataAddr) (v : Nibble) (hw : Mem.wf dmFill 0x100 0x1000 s.dm = true)
    (hp : isPeriph a = false) (hr : isReadOnly a = false) : (s.poke a v).peek a = v := by
  have hper := dmCell_eq_periph_iff a
  simp only [State.peek, State.poke]
  cases hc : dmCell a with
  | ram => exact Mem.read_write_same hw
  | periph => simp [hper.1 hc] at hp
  | reg r =>
    have := dmCell_reg hc
    subst this
    cases r <;> first | rfl | (exact absurd hr (by decide))

/-- A write to a read-only address changes nothing (R36, R81). -/
theorem State.poke_readOnly (s : State) (a : DataAddr) (v : Nibble) (hr : isReadOnly a = true) : s.poke a v = s := by
  simp only [isReadOnly, Bool.or_eq_true, beq_iff_eq] at hr
  rcases hr with (rfl | rfl) | rfl <;> rfl

/-- A write is seen nowhere else, but for what a device makes of it. -/
theorem State.peek_poke_ne (s : State) (a b : DataAddr) (v : Nibble) (hb : isPeriph b = false) (hne : b ≠ a) :
    (s.poke a v).peek b = s.peek b := by
  have hper := dmCell_eq_periph_iff b
  simp only [State.poke]
  cases hc : dmCell a with
  | ram =>
    simp only [State.peek]
    cases hd : dmCell b with
    | ram => exact Mem.read_write_ne (fun h => hne (BitVec.eq_of_toNat_eq h))
    | periph => rfl
    | reg r => cases r <;> rfl
  | periph => exact State.peek_dev _ _ _ hb
  | reg r =>
    have ha := dmCell_reg hc
    subst ha
    simp only [State.peek]
    cases hd : dmCell b with
    | ram => cases r <;> rfl
    | periph => simp [hper.1 hd] at hb
    | reg q =>
      have hq := dmCell_reg hd
      subst hq
      cases r <;> cases q <;> first | rfl | (exact absurd rfl hne)

/-- What a data-memory write never touches, and the device after it. -/
structure PokeKept (s t : State) (ad : DataAddr) (v : Nibble) : Prop where
  a : t.a = s.a
  c : t.c = s.c
  z : t.z = s.z
  g : t.g = s.g
  pc : t.pc = s.pc
  xm : t.xm = s.xm
  draws : t.draws = s.draws
  dev : t.dev = devWrite s.dev ad v
  kept : CoreKept s t

theorem State.poke_kept (s : State) (a : DataAddr) (v : Nibble) : PokeKept s (s.poke a v) a v := by
  have hr := dmCell_eq_ram_iff a
  have hp := dmCell_eq_periph_iff a
  simp only [State.poke]
  cases hc : dmCell a with
  | ram =>
    have h1 := hr.1 hc
    have h2 : isPeriph a = false := by simp only [isPeriph, decide_eq_false_iff_not]; omega
    constructor <;> try rfl
    · simp [devWrite, h2]
    · constructor <;> rfl
  | periph =>
    constructor <;> try rfl
    · simp [devWrite, hp.1 hc]
    · constructor <;> rfl
  | reg r =>
    have h2 := isPeriph_of_reg hc
    constructor <;> try (first | rfl | (cases r <;> rfl))
    · simp [devWrite, h2]
    · constructor <;> (first | rfl | (cases r <;> rfl))

/-- A data-memory write keeps RAM canonical. -/
theorem State.poke_dm_wf (s : State) (a : DataAddr) (v : Nibble) (hw : Mem.wf dmFill 0x100 0x1000 s.dm = true) :
    Mem.wf dmFill 0x100 0x1000 (s.poke a v).dm = true := by
  have hr := dmCell_eq_ram_iff a
  simp only [State.poke]
  cases hc : dmCell a with
  | ram => exact Mem.wf_write hw (hr.1 hc) a.isLt
  | periph => exact hw
  | reg r => simpa using hw

/-- Which addresses answer depends on the parameters only. -/
theorem State.accessible_congr {s t : State} (h : t.params = s.params) (a : DataAddr) :
    t.accessible a = s.accessible a := by
  simp only [State.accessible, h]

/-- A pair's value is the two nibbles at its addresses. -/
theorem State.pairValue_eq_peek (s : State) (p : Pair) :
    s.pairValue p = (match p with | .hl => s.peek 0x0FC#12 ++ s.peek 0x0FB#12 | .xy => s.peek 0x0FA#12 ++ s.peek 0x0F9#12) := by
  cases p <;> rfl

end Sys2Proof.Machine
end

