-- ==== Sys2Proof/Laws/Operands.lean ====
section
/-! SUPPORT. What the two skeletons, one nibble (R200) and two nibbles (R381), can do, said once each: where they complete
and what they leave, and where they stop. -/

namespace Sys2Proof.Machine

/-! ### The parts of the one-nibble skeleton -/

/-- The state after the read of a body. -/
def afterRead (reads : Bool) (s : State) (a : DataAddr) : State :=
  if reads then { s with dev := devRead s.dev a } else s

/-- The nibble a body works on: the one read, or none (0). -/
def bodyNibble (reads : Bool) (s : State) (a : DataAddr) : Nibble := if reads then s.peek a else 0

/-- The state after the write of a body. -/
def afterWrite (store : Option Nibble) (s : State) (a : DataAddr) : State :=
  match store with
  | none => s
  | some v => s.poke a v

theorem accessNibble_eq (reads : Bool) (a : DataAddr) (f : Nibble → Effect) (s : State) (h : s.accessible a = true) :
    accessNibble reads a f s = .ok ((afterWrite (f (bodyNibble reads s a)).store (afterRead reads s a) a).setAcz
      (f (bodyNibble reads s a)).a (f (bodyNibble reads s a)).c (f (bodyNibble reads s a)).z) := by
  have hr : dmReadIf reads s a = .ok (bodyNibble reads s a, afterRead reads s a) := by
    cases reads
    · rfl
    · simp [dmReadIf, dmRead_eq, h, bodyNibble, afterRead]
  have ha : (afterRead reads s a).accessible a = true := by
    rw [State.accessible_congr (s := s) (by cases reads <;> rfl), h]
  have hw : ∀ store, dmWriteIf store (afterRead reads s a) a = .ok (afterWrite store (afterRead reads s a) a) := by
    intro store
    cases store with
    | none => rfl
    | some v => simp [dmWriteIf, dmWrite_eq, ha, afterWrite]
  simp only [accessNibble, hr, hw]

/-- An address that does not answer stops the access with its own outcome. -/
theorem accessNibble_noAnswer (reads : Bool) (a : DataAddr) (f : Nibble → Effect) (s : State)
    (h : s.accessible a = false) (hu : reads = true ∨ ∀ v, (f v).store ≠ none) :
    accessNibble reads a f s = .error (noAnswer a) := by
  cases reads with
  | true => simp [accessNibble, dmReadIf, dmRead_eq, h]
  | false =>
    have hs := hu.resolve_left (by simp) 0
    cases hf : (f 0).store with
    | none => exact absurd hf hs
    | some v =>
      have : f (0 : Nibble) = f 0#4 := rfl
      rw [this] at hf
      simp [accessNibble, dmReadIf, hf, dmWriteIf, dmWrite_eq, h]

/-- What the read and write of a body leave. -/
structure BodyDone (reads : Bool) (store : Option Nibble) (ad : DataAddr) (s t : State) : Prop where
  a : t.a = s.a
  c : t.c = s.c
  z : t.z = s.z
  g : t.g = s.g
  pc : t.pc = s.pc
  stored : ∀ v, store = some v → isPeriph ad = false → isReadOnly ad = false → t.peek ad = v
  frame : ∀ b, isPeriph b = false → (b ≠ ad ∨ store = none ∨ isReadOnly b = true) → t.peek b = s.peek b
  dev : t.dev = devAfter reads store s.dev ad
  xm : t.xm = s.xm
  draws : t.draws = s.draws
  kept : CoreKept s t

theorem CoreKept.refl (s : State) : CoreKept s s := by constructor <;> rfl

theorem CoreKept.trans {s t u : State} (h : CoreKept s t) (k : CoreKept t u) : CoreKept s u where
  mie := k.mie.trans h.mie
  sp := k.sp.trans h.sp
  callStack := k.callStack.trans h.callStack
  regStack := k.regStack.trans h.regStack
  mieSaved := k.mieSaved.trans h.mieSaved
  halted := k.halted.trans h.halted
  pm := k.pm.trans h.pm
  melodyStart := k.melodyStart.trans h.melodyStart
  requests := k.requests.trans h.requests
  inputs := k.inputs.trans h.inputs
  params := k.params.trans h.params

theorem afterRead_bodyDone (reads : Bool) (s : State) (ad : DataAddr) : BodyDone reads none ad s (afterRead reads s ad) := by
  cases reads with
  | false =>
    constructor <;> first | rfl | (intros; rfl) | (intros; contradiction) | exact CoreKept.refl s
  | true =>
    constructor
    case frame => exact fun b hb _ => State.peek_dev s _ b hb
    case stored => intros; contradiction
    case kept => constructor <;> rfl
    all_goals rfl

theorem body_done (reads : Bool) (store : Option Nibble) (s : State) (ad : DataAddr)
    (hw : Mem.wf dmFill 0x100 0x1000 s.dm = true) :
    BodyDone reads store ad s (afterWrite store (afterRead reads s ad) ad) := by
  cases store with
  | none => exact afterRead_bodyDone reads s ad
  | some v =>
    have h := afterRead_bodyDone reads s ad
    have k := State.poke_kept (afterRead reads s ad) ad v
    have hdm : (afterRead reads s ad).dm = s.dm := by cases reads <;> rfl
    constructor
    · exact k.a.trans h.a
    · exact k.c.trans h.c
    · exact k.z.trans h.z
    · exact k.g.trans h.g
    · exact k.pc.trans h.pc
    · intro w hv hp hr
      cases hv
      exact State.peek_poke_same _ _ _ (by rw [hdm]; exact hw) hp hr
    · intro b hb hne
      rw [← h.frame b hb (.inr (.inl rfl))]
      by_cases hba : b = ad
      · subst hba
        have hr : isReadOnly b = true := by
          rcases hne with hne | hne | hne
          · exact absurd rfl hne
          · cases hne
          · exact hne
        simp only [afterWrite, State.poke_readOnly _ _ _ hr]
      · exact State.peek_poke_ne _ _ _ _ hb hba
    · exact k.dev.trans (by rw [h.dev]; rfl)
    · exact k.xm.trans h.xm
    · exact k.draws.trans h.draws
    · exact h.kept.trans k.kept

/-! ### The one-nibble skeleton -/

/-- The effect of a body on the nibble it works on. -/
def bodyEffect (reads : Bool) (o : Obj) (f : Nibble → Effect) (s : State) : Effect :=
  f (bodyNibble reads s (effAddr s o))

theorem increments_eq {o : Obj} {p : Pair} (h : o.increments p = true) : ∃ i, o = .ind i ∧ i.post = true ∧ i.ptr.pair = p := by
  cases o with
  | ind i =>
    simp only [Obj.increments, Bool.and_eq_true, decide_eq_true_eq] at h
    exact ⟨i, rfl, h.1, h.2⟩
  | _ => simp [Obj.increments] at h

theorem movesRegAt_ind {i : Ind} {b : DataAddr} (hp : i.post = true) (h : (Obj.ind i).movesRegAt b = false) :
    isPairReg i.ptr.pair b = false := by
  simp only [Obj.movesRegAt, Obj.increments, hp, Bool.true_and, Bool.or_eq_false_iff, Bool.and_eq_false_iff,
    decide_eq_false_iff_not] at h
  cases hq : i.ptr.pair
  · exact h.1.resolve_left (by simp [hq])
  · exact h.2.resolve_left (by simp [hq])

theorem ptrAddr_pair (s : State) (p : Ptr) : (ptrAddr s p).extractLsb' 0 8 = s.pairValue p.pair := by
  simp only [ptrAddr]
  generalize s.bankValue p.bank = k
  generalize s.pairValue p.pair = v
  ext i hi
  simp only [BitVec.getElem_extractLsb', Nat.zero_add]
  change (k ++ v : BitVec (4 + 8)).getLsbD i = _
  rw [BitVec.getLsbD_append]
  simp [hi]

theorem isPointerReg_of_isPairReg : ∀ (p : Pair) (a : DataAddr), isPairReg p a = true → isPointerReg a = true := by
  intro p a h
  cases p <;> simp only [isPairReg, Bool.or_eq_true, beq_iff_eq] at h <;> rcases h with rfl | rfl <;> rfl

/-- Two states that agree at a pair's addresses agree on the pair. -/
theorem pairValue_congr {s t : State} (p : Pair) (h : ∀ b, isPairReg p b = true → t.peek b = s.peek b) :
    t.pairValue p = s.pairValue p := by
  rw [State.pairValue_eq_peek, State.pairValue_eq_peek]
  cases p with
  | hl => simp only [h 0x0FC#12 rfl, h 0x0FB#12 rfl]
  | xy => simp only [h 0x0FA#12 rfl, h 0x0F9#12 rfl]

theorem isPeriph_of_isPointerReg {a : DataAddr} (h : isPointerReg a = true) : isPeriph a = false := by
  simp only [isPointerReg, Bool.and_eq_true, decide_eq_true_eq] at h
  simp only [isPeriph, decide_eq_false_iff_not]; omega

theorem nibbleOp_eq (reads : Bool) (o : Obj) (f : Nibble → Effect) (s : State)
    (hacc : s.accessible (effAddr s o) = true) :
    nibbleOp reads o f s = .next ((afterNibble o (effAddr s o)
      ((afterWrite (bodyEffect reads o f s).store (afterRead reads s (effAddr s o)) (effAddr s o)).setAcz
        (bodyEffect reads o f s).a (bodyEffect reads o f s).c (bodyEffect reads o f s).z)).setPc (s.pc + 1)) := by
  simp only [nibbleOp, accessNibble_eq _ _ _ _ hacc, bodyEffect]

/-- Where a one-nibble instruction completes, and what it leaves (R200). -/
theorem nibbleOp_done (reads : Bool) (o : Obj) (f : Nibble → Effect) (s : State)
    (hw : Mem.wf dmFill 0x100 0x1000 s.dm = true) (hacc : s.accessible (effAddr s o) = true)
    (hU : prohibitedPost o (effAddr s o) = false) :
    ∃ t, nibbleOp reads o f s = .next t ∧ NibbleDone reads o (bodyEffect reads o f s) s t := by
  refine ⟨_, nibbleOp_eq reads o f s hacc, ?_⟩
  generalize bodyEffect reads o f s = e
  have hb := body_done reads e.store s (effAddr s o) hw
  revert hb
  generalize afterWrite e.store (afterRead reads s (effAddr s o)) (effAddr s o) = u
  intro hb
  by_cases hpost : ∃ i, o = .ind i ∧ i.post = true
  · obtain ⟨i, rfl, hi⟩ := hpost
    have hnp : isPointerReg (effAddr s (.ind i)) = false := by
      simpa [prohibitedPost, Obj.isPost, hi] using hU
    have hpair : u.pairValue i.ptr.pair = s.pairValue i.ptr.pair := by
      refine pairValue_congr _ fun b hbp => hb.frame b ?_ (.inl ?_)
      · exact isPeriph_of_isPointerReg (isPointerReg_of_isPairReg _ _ hbp)
      · rintro rfl
        rw [isPointerReg_of_isPairReg _ _ hbp] at hnp
        cases hnp
    have haft : afterNibble (.ind i) (effAddr s (.ind i)) (u.setAcz e.a e.c e.z)
        = (u.setAcz e.a e.c e.z).incPair i.ptr.pair 1 := by
      simp [afterNibble, hi, hnp]
    rw [haft]
    have hpv : (u.setAcz e.a e.c e.z).pairValue i.ptr.pair = u.pairValue i.ptr.pair := by
      cases i.ptr.pair <;> rfl
    constructor
    · simp
    · simp
    · simp
    · simp
    · intro h; simp [Obj.isPost, hi] at h
    · intro p hp
      obtain ⟨j, hj, _, rfl⟩ := increments_eq hp
      cases hj
      have h1 : (((u.setAcz e.a e.c e.z).incPair i.ptr.pair 1).setPc (s.pc + 1)).pairValue i.ptr.pair
          = s.pairValue i.ptr.pair + 1 := by
        have : ∀ (v : State) (w : Word) (p : Pair), (v.setPc w).pairValue p = v.pairValue p := by
          intro v w p; cases p <;> rfl
        rw [this, State.incPair_pairValue, hpv, hpair]
        rfl
      refine ⟨h1, ?_⟩
      simp only [State.setPc_g, State.incPair_g, hpv, hpair, decide_eq_true_eq]
      have := (s.pairValue i.ptr.pair).isLt
      constructor
      · intro h; apply BitVec.eq_of_toNat_eq; show _ = 255; omega
      · intro h; rw [h]; decide
    · intro v hv hp hr
      rw [State.peek_setPc, State.peek_incPair, State.peek_setAcz]
      · exact hb.stored v hv hp hr
      · cases hx : isPairReg i.ptr.pair (effAddr s (.ind i))
        · rfl
        · rw [isPointerReg_of_isPairReg _ _ hx] at hnp; cases hnp
    · intro b hbp hne hm
      rw [State.peek_setPc, State.peek_incPair _ _ _ _ (movesRegAt_ind hi hm), State.peek_setAcz]
      exact hb.frame b hbp hne
    · simp [hb.dev]
    · simp [hb.xm]
    · simp [hb.draws]
    · refine hb.kept.trans ?_
      constructor <;> simp
  · have haft : afterNibble o (effAddr s o) (u.setAcz e.a e.c e.z) = u.setAcz e.a e.c e.z := by
      cases o with
      | ind i =>
        have : i.post = false := by
          cases hi : i.post
          · rfl
          · exact absurd ⟨i, rfl, hi⟩ hpost
        simp [afterNibble, this]
      | _ => rfl
    rw [haft]
    constructor
    · simp
    · simp
    · simp
    · simp
    · intro _; simp [hb.g]
    · intro p hp
      obtain ⟨i, rfl, hi, _⟩ := increments_eq hp
      exact absurd ⟨i, rfl, hi⟩ hpost
    · intro v hv hp hr
      rw [State.peek_setPc, State.peek_setAcz]
      exact hb.stored v hv hp hr
    · intro b hbp hne _
      rw [State.peek_setPc, State.peek_setAcz]
      exact hb.frame b hbp hne
    · simp [hb.dev]
    · simp [hb.xm]
    · simp [hb.draws]
    · refine hb.kept.trans ?_
      constructor <;> simp

/-- A one-nibble instruction stops where its address does not answer (R80, R81). -/
theorem nibbleOp_noAnswer (reads : Bool) (o : Obj) (f : Nibble → Effect) (s : State)
    (h : s.accessible (effAddr s o) = false) (hu : reads = true ∨ ∀ v, (f v).store ≠ none) :
    nibbleOp reads o f s = .fault (noAnswer (effAddr s o)) := by
  simp only [nibbleOp, accessNibble_noAnswer reads _ f s h hu]

/-- The prohibited case of R93 completes too, and leaves anything in the ten items of U1 only. -/
theorem nibbleOp_scrambled (reads : Bool) (o : Obj) (f : Nibble → Effect) (s : State)
    (hw : Mem.wf dmFill 0x100 0x1000 s.dm = true) (hU : prohibitedPost o (effAddr s o) = true) :
    ∃ t, nibbleOp reads o f s = .next t ∧ Scrambled 1 s t ∧ t.dev = s.dev ∧ t.xm = s.xm := by
  have hpt : isPointerReg (effAddr s o) = true := by
    simp only [prohibitedPost, Bool.and_eq_true] at hU; exact hU.2
  have hper := isPeriph_of_isPointerReg hpt
  have hreg : s.accessible (effAddr s o) = true := by
    obtain hc | hc | ⟨r, hc⟩ := dmCell_cases (effAddr s o)
    · have := (dmCell_eq_ram_iff _).1 hc
      simp only [isPointerReg, Bool.and_eq_true, decide_eq_true_eq] at hpt; omega
    · rw [(dmCell_eq_periph_iff _).1 hc] at hper; cases hper
    · simp [State.accessible, hc]
  refine ⟨_, nibbleOp_eq reads o f s hreg, ?_⟩
  generalize bodyEffect reads o f s = e
  have hb := body_done reads e.store s (effAddr s o) hw
  revert hb
  generalize hu : afterWrite e.store (afterRead reads s (effAddr s o)) (effAddr s o) = u
  intro hb
  have hpost : ∃ i, o = .ind i ∧ i.post = true := by
    simp only [prohibitedPost, Bool.and_eq_true] at hU
    cases o with
    | ind i => exact ⟨i, rfl, hU.1⟩
    | _ => exact absurd hU.1 (by simp [Obj.isPost])
  obtain ⟨i, rfl, hi⟩ := hpost
  have haft : afterNibble (.ind i) (effAddr s (.ind i)) (u.setAcz e.a e.c e.z) = (u.setAcz e.a e.c e.z).scramble := by
    simp [afterNibble, hi, hpt]
  rw [haft]
  refine ⟨⟨by simp, ?_, hb.kept.trans (by constructor <;> simp)⟩, ?_, by simp [hb.xm]⟩
  · intro b hbp hbr
    rw [State.peek_setPc, State.peek_scramble _ _ hbr, State.peek_setAcz]
    refine hb.frame b hbp (.inl ?_)
    rintro rfl
    rw [hpt] at hbr; cases hbr
  · simp only [State.setPc_dev, State.scramble_dev, State.setAcz_dev, hb.dev, devAfter, devRead, devWrite, hper]
    cases e.store <;> simp

/-! ### The two-nibble skeletons -/

/-- The second address as the skeleton computes it (R382). -/
theorem nextNibble_eq {s : State} {ea ea1 : DataAddr} (h : SecondNibble s ea ea1) : nextNibble s ea = .ok ea1 := by
  have hinc : ∀ a : DataAddr, offsetOf a ≠ 0xFF#8 → bankOf a ++ (offsetOf a + 1) = a + 1 := by decide +kernel
  have hcar : ∀ a : DataAddr, offsetOf a = 0xFF#8 → (bankOf a + 1) ++ 0x00#8 = a + 1 := by decide +kernel
  rcases h with ⟨h1, rfl⟩ | ⟨h1, h2, rfl⟩ | ⟨h1, h2, rfl⟩
  · simp only [nextNibble, if_neg h1, hinc ea h1]
  · simp only [nextNibble, if_pos h1, h2]
  · simp only [nextNibble, if_pos h1, h2, hcar ea h1]

/-- Past offset 0FFH the transfer stops under BYTE_XFER_WRAP = fault (R382). -/
theorem nextNibble_fault {s : State} {ea : DataAddr} (h : offsetOf ea = 0xFF#8) (hp : s.params.byteXferWrap = .fault) :
    nextNibble s ea = .error (.byteTransferWrap ea) := by
  simp only [nextNibble, if_pos h, hp]

/-- What one destination nibble of a transfer leaves. -/
structure HalfDone (s t : State) (ad : DataAddr) (v : Nibble) : Prop where
  a : t.a = s.a
  c : t.c = s.c
  z : t.z = s.z
  g : t.g = s.g
  pc : t.pc = s.pc
  stored : isPeriph ad = false → isReadOnly ad = false → isUndefinedDest ad = false → t.peek ad = v
  frame : ∀ b, isPeriph b = false → (b ≠ ad ∨ isReadOnly b = true) → t.peek b = s.peek b
  dev : t.dev = devWrite s.dev ad v
  xm : t.xm = s.xm
  draws : isUndefinedDest ad = false → t.draws = s.draws
  kept : CoreKept s t
  wf : Mem.wf dmFill 0x100 0x1000 t.dm = true

theorem isUndefinedDest_periph {a : DataAddr} (h : isUndefinedDest a = true) : isPeriph a = false := by
  simp only [isUndefinedDest, isPointerReg, Bool.or_eq_true, Bool.and_eq_true, decide_eq_true_eq] at h
  simp only [isPeriph, decide_eq_false_iff_not]; omega

theorem dmWriteByteHalf_done (s : State) (ad : DataAddr) (v : Nibble) (hacc : s.accessible ad = true)
    (hw : Mem.wf dmFill 0x100 0x1000 s.dm = true) :
    ∃ t, dmWriteByteHalf s ad v = .ok t ∧ HalfDone s t ad v := by
  cases hU : isUndefinedDest ad with
  | false =>
    refine ⟨s.poke ad v, by simp [dmWriteByteHalf, hU, dmWrite_eq, hacc], ?_⟩
    have k := State.poke_kept s ad v
    constructor
    · exact k.a
    · exact k.c
    · exact k.z
    · exact k.g
    · exact k.pc
    · exact fun hp hr _ => State.peek_poke_same s ad v hw hp hr
    · intro b hb hne
      by_cases hba : b = ad
      · subst hba
        rw [State.poke_readOnly _ _ _ (hne.resolve_left (fun h => h rfl))]
      · exact State.peek_poke_ne s ad b v hb hba
    · exact k.dev
    · exact k.xm
    · exact fun _ => k.draws
    · exact k.kept
    · exact State.poke_dm_wf s ad v hw
  | true =>
    have hacc' : ({ s with draws := s.draws + 1 } : State).accessible ad = true := by
      exact (State.accessible_congr (s := s) (t := { s with draws := s.draws + 1 }) rfl ad).trans hacc
    refine ⟨({ s with draws := s.draws + 1 } : State).poke ad (Config.freeNibble s.draws),
      by simp only [dmWriteByteHalf, hU, if_true, dmWrite_eq, hacc'], ?_⟩
    have k := State.poke_kept { s with draws := s.draws + 1 } ad (Config.freeNibble s.draws)
    have hper := isUndefinedDest_periph hU
    constructor
    · exact k.a
    · exact k.c
    · exact k.z
    · exact k.g
    · exact k.pc
    · intro _ _ h; rw [hU] at h; cases h
    · intro b hb hne
      rw [← State.peek_draws s (s.draws + 1) b]
      by_cases hba : b = ad
      · subst hba
        rw [State.poke_readOnly _ _ _ (hne.resolve_left (fun h => h rfl))]
      · exact State.peek_poke_ne _ ad b _ hb hba
    · rw [k.dev]; simp [devWrite, hper]
    · exact k.xm
    · intro h; rw [hU] at h; cases h
    · exact (CoreKept.trans (t := { s with draws := s.draws + 1 }) (by constructor <;> rfl) k.kept)
    · exact State.poke_dm_wf _ ad _ hw

theorem setPc_pairValue (v : State) (w : Word) (p : Pair) : (v.setPc w).pairValue p = v.pairValue p := by
  cases p <;> rfl

theorem offsetOf_ptrAddr (s : State) (p : Ptr) : offsetOf (ptrAddr s p) = s.pairValue p.pair := ptrAddr_pair s p

/-- A transfer into data memory completes, and what it leaves (R381 to R383). -/
theorem byteLoad_done (o : Ind) (src : Except Fault Byte) (len : Word) (s : State) (ea1 : DataAddr) (b : Byte)
    (hw : Mem.wf dmFill 0x100 0x1000 s.dm = true) (h1 : SecondNibble s (ptrAddr s o.ptr) ea1) (hsrc : src = .ok b)
    (ha : s.accessible (ptrAddr s o.ptr) = true) (ha1 : s.accessible ea1 = true)
    (hU : prohibitedPost (.ind o) (ptrAddr s o.ptr) = false) (hP : o.post = true → isPairReg o.ptr.pair ea1 = false) :
    ∃ t, byteLoad o src len s = .next t ∧ ByteLoaded o (ptrAddr s o.ptr) ea1 b len s t := by
  obtain ⟨s1, e1, d1⟩ := dmWriteByteHalf_done s (ptrAddr s o.ptr) (lowNibble b) ha hw
  obtain ⟨s2, e2, d2⟩ := dmWriteByteHalf_done s1 ea1 (highNibble b)
    (by rw [State.accessible_congr d1.kept.params, ha1]) d1.wf
  have e0 : byteLoad o src len s
      = .next ((afterByte o (ptrAddr s o.ptr) (isPairReg o.ptr.pair ea1) s2).setPc (s.pc + len)) := by
    simp only [byteLoad, nextNibble_eq h1, hsrc, e1, e2]
  refine ⟨_, e0, ?_⟩
  have hne : ptrAddr s o.ptr ≠ ea1 := by
    have h0 : ∀ a : DataAddr, a ≠ a + 1 := by decide +kernel
    have h0' : ∀ a : DataAddr, offsetOf a = 0xFF#8 → a ≠ bankOf a ++ 0x00#8 := by decide +kernel
    rcases h1 with ⟨_, rfl⟩ | ⟨hh, _, rfl⟩ | ⟨_, _, rfl⟩
    · exact h0 _
    · exact h0' _ hh
    · exact h0 _
  have frame2 : ∀ d, isPeriph d = false → ((d ≠ ptrAddr s o.ptr ∧ d ≠ ea1) ∨ isReadOnly d = true) →
      s2.peek d = s.peek d := by
    intro d hd hx
    rw [d2.frame d hd (hx.imp (fun h => h.2) id), d1.frame d hd (hx.imp (fun h => h.1) id)]
  have kept2 := d1.kept.trans d2.kept
  have dev2 : s2.dev = devWrite (devWrite s.dev (ptrAddr s o.ptr) (lowNibble b)) ea1 (highNibble b) := by
    rw [d2.dev, d1.dev]
  cases hpost : o.post with
  | false =>
    have haft : afterByte o (ptrAddr s o.ptr) (isPairReg o.ptr.pair ea1) s2 = s2 := by simp [afterByte, hpost]
    rw [haft]
    constructor
    · simp [d2.a, d1.a]
    · simp [d2.c, d1.c]
    · simp [d2.z, d1.z]
    · simp
    · intro _; simp [d2.g, d1.g]
    · intro h; rw [hpost] at h; cases h
    · intro hp hr hu
      rw [State.peek_setPc, d2.frame _ hp (.inl hne), d1.stored hp hr hu]; rfl
    · intro hp hr hu
      rw [State.peek_setPc, d2.stored hp hr hu]; rfl
    · intro d hd hx _
      rw [State.peek_setPc, frame2 d hd hx]
    · simp only [State.setPc_dev, dev2]; rfl
    · simp [d2.xm, d1.xm]
    · intro x y; simp [d2.draws y, d1.draws x]
    · exact kept2.trans (by constructor <;> simp)
  | true =>
    have hnp : isPointerReg (ptrAddr s o.ptr) = false := by simpa [prohibitedPost, Obj.isPost, hpost] using hU
    have hpn : ∀ d, isPairReg o.ptr.pair d = true → d ≠ ptrAddr s o.ptr ∧ d ≠ ea1 := by
      intro d hd
      constructor
      · rintro rfl; rw [isPointerReg_of_isPairReg _ _ hd] at hnp; cases hnp
      · rintro rfl; rw [hP hpost] at hd; cases hd
    have hpair : s2.pairValue o.ptr.pair = s.pairValue o.ptr.pair :=
      pairValue_congr _ fun d hd =>
        frame2 d (isPeriph_of_isPointerReg (isPointerReg_of_isPairReg _ _ hd)) (.inl (hpn d hd))
    have haft : afterByte o (ptrAddr s o.ptr) (isPairReg o.ptr.pair ea1) s2 = s2.incPair o.ptr.pair 2 := by
      simp [afterByte, hpost, hnp, hP hpost]
    rw [haft]
    have hnot : ∀ d, d = ptrAddr s o.ptr ∨ d = ea1 → isPairReg o.ptr.pair d = false := by
      intro d hd
      cases hx : isPairReg o.ptr.pair d
      · rfl
      · exact absurd hd (by have := hpn d hx; tauto)
    constructor
    · simp [d2.a, d1.a]
    · simp [d2.c, d1.c]
    · simp [d2.z, d1.z]
    · simp
    · intro h; rw [hpost] at h; cases h
    · intro _
      rw [setPc_pairValue, State.incPair_pairValue, hpair]
      refine ⟨rfl, ?_⟩
      simp only [State.setPc_g, State.incPair_g, hpair, decide_eq_true_eq]
    · intro hp hr hu
      rw [State.peek_setPc, State.peek_incPair _ _ _ _ (hnot _ (.inl rfl)), d2.frame _ hp (.inl hne), d1.stored hp hr hu]
      rfl
    · intro hp hr hu
      rw [State.peek_setPc, State.peek_incPair _ _ _ _ (hnot _ (.inr rfl)), d2.stored hp hr hu]; rfl
    · intro d hd hx hm
      rw [State.peek_setPc, State.peek_incPair _ _ _ _ (movesRegAt_ind hpost hm), frame2 d hd hx]
    · simp only [State.setPc_dev, State.incPair_dev, dev2]; rfl
    · simp [d2.xm, d1.xm]
    · intro x y; simp [d2.draws y, d1.draws x]
    · exact kept2.trans (by constructor <;> simp)

/-- A transfer out of data memory completes, and what it leaves (R381, R391). -/
theorem byteStore_done (o : Ind) (dst : Word) (len : Word) (s : State) (ea1 : DataAddr)
    (hw : Mem.wf xmFill 0 0x10000 s.xm = true) (h1 : SecondNibble s (ptrAddr s o.ptr) ea1)
    (ha : s.accessible (ptrAddr s o.ptr) = true) (ha1 : s.accessible ea1 = true) (hx : xmHas s dst = true)
    (hU : prohibitedPost (.ind o) (ptrAddr s o.ptr) = false) :
    ∃ t, byteStore o dst len s = .next t ∧ ByteStored o (ptrAddr s o.ptr) ea1 dst len s t := by
  have e1 : dmRead s (ptrAddr s o.ptr)
      = .ok (s.peek (ptrAddr s o.ptr), { s with dev := devRead s.dev (ptrAddr s o.ptr) }) := by
    rw [dmRead_eq, if_pos ha]
  generalize hs1 : ({ s with dev := devRead s.dev (ptrAddr s o.ptr) } : State) = s1 at e1
  have p1 : s1.params = s.params := by rw [← hs1]
  have e2 : dmRead s1 ea1 = .ok (s1.peek ea1, { s1 with dev := devRead s1.dev ea1 }) := by
    rw [dmRead_eq, if_pos (by rw [State.accessible_congr p1, ha1])]
  generalize hs2 : ({ s1 with dev := devRead s1.dev ea1 } : State) = s2 at e2
  have p2 : s2.params = s.params := by rw [← hs2]; exact p1
  have e3 : xmWrite s2 dst (s1.peek ea1 ++ s.peek (ptrAddr s o.ptr))
      = .ok { s2 with xm := Mem.write xmFill s2.xm dst.toNat (s1.peek ea1 ++ s.peek (ptrAddr s o.ptr)) } := by
    have : xmHas s2 dst = true := by simpa only [xmHas, p2] using hx
    rw [xmWrite, if_pos this]
  have e0 : byteStore o dst len s = .next ((afterByte o (ptrAddr s o.ptr) false
      { s2 with xm := Mem.write xmFill s2.xm dst.toNat (s1.peek ea1 ++ s.peek (ptrAddr s o.ptr)) }).setPc
        (s.pc + len)) := by
    simp only [byteStore, nextNibble_eq h1, e1, e2, e3]
  refine ⟨_, e0, ?_⟩
  subst hs2
  subst hs1
  have hxm : ∀ d, isPeriph d = false →
      ({ s with dev := devRead (devRead s.dev (ptrAddr s o.ptr)) ea1,
                xm := Mem.write xmFill s.xm dst.toNat
                  (({ s with dev := devRead s.dev (ptrAddr s o.ptr) } : State).peek ea1 ++ s.peek (ptrAddr s o.ptr)) } :
        State).peek d = s.peek d := by
    intro d hd
    have := State.peek_xm { s with dev := devRead (devRead s.dev (ptrAddr s o.ptr)) ea1 }
      (Mem.write xmFill s.xm dst.toNat
                  (({ s with dev := devRead s.dev (ptrAddr s o.ptr) } : State).peek ea1 ++ s.peek (ptrAddr s o.ptr))) d
    exact this.trans (State.peek_dev s _ d hd)
  cases hpost : o.post with
  | false =>
    have haft : ∀ u, afterByte o (ptrAddr s o.ptr) false u = u := by intro u; simp [afterByte, hpost]
    simp only [haft]
    constructor
    case g_plain => intro _; rfl
    case post => intro h; rw [hpost] at h; cases h
    case byte => exact Mem.read_write_same hw
    case xmFrame => exact fun d hd => Mem.read_write_ne (fun h => hd (BitVec.eq_of_toNat_eq h))
    case frame => intro d hd _; rw [State.peek_setPc]; exact hxm d hd
    case kept => constructor <;> rfl
    all_goals rfl
  | true =>
    have hnp : isPointerReg (ptrAddr s o.ptr) = false := by simpa [prohibitedPost, Obj.isPost, hpost] using hU
    have haft : ∀ u, afterByte o (ptrAddr s o.ptr) false u = u.incPair o.ptr.pair 2 := by
      intro u; simp [afterByte, hpost, hnp]
    simp only [haft]
    have hpv : ∀ (n : Nat) (m : Mem Byte), ({ s with dev := n, xm := m } : State).pairValue o.ptr.pair
        = s.pairValue o.ptr.pair := by intro n m; cases o.ptr.pair <;> rfl
    constructor
    case g_plain => intro h; rw [hpost] at h; cases h
    case post =>
      intro _
      rw [setPc_pairValue, State.incPair_pairValue, hpv]
      refine ⟨rfl, ?_⟩
      simp only [State.setPc_g, State.incPair_g, hpv, decide_eq_true_eq]
    case byte => simp only [State.xmPeek, State.setPc_xm, State.incPair_xm]; exact Mem.read_write_same hw
    case xmFrame =>
      intro d hd
      simp only [State.xmPeek, State.setPc_xm, State.incPair_xm]
      exact Mem.read_write_ne (fun h => hd (BitVec.eq_of_toNat_eq h))
    case frame =>
      intro d hd hm
      rw [State.peek_setPc, State.peek_incPair _ _ _ _ (movesRegAt_ind hpost hm)]; exact hxm d hd
    case kept => constructor <;> simp
    all_goals simp

end Sys2Proof.Machine
end

