-- ==== Sys2Proof/Laws/Frames.lean ====
section
/-! SUPPORT. What each shared operation can do when it answers, said once: memory accesses, the two stacks, the skeletons of
the data-memory instructions, interrupt entry, and the step. -/

namespace Sys2Proof.Machine

/-! ### Memory accesses -/

theorem dmRead_ok {s t : State} {a : DataAddr} {v : Nibble} (h : dmRead s a = .ok (v, t)) :
    s.accessible a = true ∧ v = s.peek a ∧ t = { s with dev := devRead s.dev a } := by
  rw [dmRead_eq] at h
  split at h
  · cases h; exact ⟨‹_›, rfl, rfl⟩
  · cases h

theorem dmWrite_ok {s t : State} {a : DataAddr} {v : Nibble} (h : dmWrite s a v = .ok t) :
    s.accessible a = true ∧ t = s.poke a v := by
  rw [dmWrite_eq] at h
  split at h
  · cases h; exact ⟨‹_›, rfl⟩
  · cases h

theorem pmRead_ok {s : State} {a w : Word} (h : pmRead s a = .ok w) : a.toNat < s.params.pmWords ∧ w = s.pmPeek a := by
  unfold pmRead at h
  split at h
  · cases h; exact ⟨‹_›, rfl⟩
  · cases h

theorem xmRead_ok {s : State} {a : Word} {b : Byte} (h : xmRead s a = .ok b) : xmHas s a = true ∧ b = s.xmPeek a := by
  unfold xmRead at h
  split at h
  · cases h; exact ⟨‹_›, rfl⟩
  · cases h

theorem xmWrite_ok {s t : State} {a : Word} {b : Byte} (h : xmWrite s a b = .ok t) :
    xmHas s a = true ∧ t = { s with xm := Mem.write xmFill s.xm a.toNat b } := by
  unfold xmWrite at h
  split at h
  · cases h; exact ⟨‹_›, rfl⟩
  · cases h

/-! ### Stacks -/

theorem callRoom_iff (s : State) : s.callRoom ↔ ¬ (s.sp = 0x1F#5 ∧ s.params.stackWrap = .fault) := by
  unfold State.callRoom; cases s.params.stackWrap <;> simp

theorem callLevel_iff (s : State) : s.callLevel ↔ ¬ (s.sp = 0x00#5 ∧ s.params.stackWrap = .fault) := by
  unfold State.callLevel; cases s.params.stackWrap <;> simp

theorem regRoom_iff (s : State) : s.regRoom ↔ ¬ (s.rsp = 0xF#4 ∧ s.params.stackWrap = .fault) := by
  unfold State.regRoom; cases s.params.stackWrap <;> simp

theorem regLevel_iff (s : State) : s.regLevel ↔ ¬ (s.rsp = 0x0#4 ∧ s.params.stackWrap = .fault) := by
  unfold State.regLevel; cases s.params.stackWrap <;> simp

theorem callPush_room {s : State} (h : s.callRoom) (v : Word) : callPush s v = .ok (s.withCallLevel v) :=
  if_neg ((callRoom_iff s).1 h)

theorem callPush_ok {s t : State} {v : Word} (h : callPush s v = .ok t) : s.callRoom ∧ t = s.withCallLevel v := by
  unfold callPush at h
  split at h
  · cases h
  · cases h; exact ⟨(callRoom_iff s).2 ‹_›, rfl⟩

theorem callReturn_level {s : State} (h : s.callLevel) :
    callReturn s = .ok { s with sp := s.sp - 1, pc := s.topCall + 1 } :=
  if_neg ((callLevel_iff s).1 h)

theorem callReturn_ok {s t : State} (h : callReturn s = .ok t) :
    s.callLevel ∧ t = { s with sp := s.sp - 1, pc := s.topCall + 1 } := by
  unfold callReturn at h
  split at h
  · cases h
  · cases h; exact ⟨(callLevel_iff s).2 ‹_›, rfl⟩

theorem framePush_ok {s t : State} {f : Frame} (h : framePush s f = .ok t) :
    s.regRoom ∧ t = { s with regStack := s.regStack.set s.rsp.toNat f s.rsp.isLt, rsp := s.rsp + 1 } := by
  unfold framePush at h
  split at h
  · cases h
  · cases h; exact ⟨(regRoom_iff s).2 ‹_›, rfl⟩

theorem framePop_ok {s t : State} {f : Frame} (h : framePop s = .ok (f, t)) :
    s.regLevel ∧ f = s.topFrame ∧ t = { s with rsp := s.rsp - 1 } := by
  unfold framePop at h
  split at h
  · cases h
  · cases h; exact ⟨(regLevel_iff s).2 ‹_›, rfl, rfl⟩

/-! ### What every data-memory instruction keeps -/

/-- What a data-memory access keeps: the items of `CoreKept`, external memory, and the canonical form of data RAM. -/
structure DataKept (s t : State) : Prop where
  core : CoreKept s t
  xm : t.xm = s.xm
  dm : Mem.wf dmFill 0x100 0x1000 s.dm = true → Mem.wf dmFill 0x100 0x1000 t.dm = true

theorem DataKept.refl (s : State) : DataKept s s := ⟨CoreKept.refl s, rfl, id⟩

theorem DataKept.trans {s t u : State} (h : DataKept s t) (k : DataKept t u) : DataKept s u :=
  ⟨h.core.trans k.core, k.xm.trans h.xm, fun w => k.dm (h.dm w)⟩

/-- A data update that touches none of these items keeps them. -/
theorem DataKept.of_eq {s t : State} (h : CoreKept s t) (hx : t.xm = s.xm) (hd : t.dm = s.dm) : DataKept s t :=
  ⟨h, hx, fun w => by rw [hd]; exact w⟩

theorem dmRead_kept {s t : State} {a : DataAddr} {v : Nibble} (h : dmRead s a = .ok (v, t)) : DataKept s t := by
  obtain ⟨-, -, rfl⟩ := dmRead_ok h
  exact .of_eq (by constructor <;> rfl) rfl rfl

theorem dmRead_dm {s t : State} {a : DataAddr} {v : Nibble} (h : dmRead s a = .ok (v, t)) : t.dm = s.dm := by
  rw [(dmRead_ok h).2.2]

theorem poke_kept (s : State) (a : DataAddr) (v : Nibble) : DataKept s (s.poke a v) :=
  ⟨(State.poke_kept s a v).kept, (State.poke_kept s a v).xm, State.poke_dm_wf s a v⟩

theorem dmWrite_kept {s t : State} {a : DataAddr} {v : Nibble} (h : dmWrite s a v = .ok t) : DataKept s t := by
  obtain ⟨-, rfl⟩ := dmWrite_ok h
  exact poke_kept s a v

theorem dmWriteByteHalf_kept {s t : State} {a : DataAddr} {v : Nibble} (h : dmWriteByteHalf s a v = .ok t) :
    DataKept s t := by
  unfold dmWriteByteHalf at h
  split at h
  · refine DataKept.trans (t := { s with draws := s.draws + 1 }) ?_ (dmWrite_kept h)
    exact .of_eq (by constructor <;> rfl) rfl rfl
  · exact dmWrite_kept h

theorem setPc_kept (s : State) (w : Word) : DataKept s (s.setPc w) := .of_eq (by constructor <;> rfl) rfl rfl

theorem setAcz_kept (s : State) (a : Nibble) (c z : Bool) : DataKept s (s.setAcz a c z) :=
  .of_eq (by constructor <;> rfl) rfl rfl

theorem scramble_kept (s : State) : DataKept s s.scramble := .of_eq (by constructor <;> rfl) rfl rfl

theorem incPair_kept (s : State) (p : Pair) (k : Nat) : DataKept s (s.incPair p k) := by
  cases p <;> exact .of_eq (by constructor <;> rfl) rfl rfl

theorem drawPair_kept (s : State) (p : Pair) (g : Bool) : DataKept s ((s.drawPair p).setG g) := by
  cases p <;> exact .of_eq (by constructor <;> rfl) rfl rfl

theorem afterNibble_kept (o : Obj) (ea : DataAddr) (s : State) : DataKept s (afterNibble o ea s) := by
  unfold afterNibble
  repeat' split
  · exact scramble_kept s
  · exact incPair_kept s _ _
  · exact .refl s
  · exact .refl s

theorem afterByte_kept (o : Ind) (ea : DataAddr) (b : Bool) (s : State) : DataKept s (afterByte o ea b s) := by
  unfold afterByte
  repeat' split
  · exact scramble_kept s
  · exact drawPair_kept s _ _
  · exact incPair_kept s _ _
  · exact .refl s

theorem afterByte_dm (o : Ind) (ea : DataAddr) (b : Bool) (s : State) : (afterByte o ea b s).dm = s.dm := by
  unfold afterByte
  repeat' split
  all_goals first | rfl | (cases o.ptr.pair <;> rfl)

theorem accessNibble_kept {reads : Bool} {ea : DataAddr} {f : Nibble → Effect} {s t : State}
    (h : accessNibble reads ea f s = .ok t) : DataKept s t := by
  unfold accessNibble at h
  split at h
  · cases h
  · rename_i v s1 hr
    have k1 : DataKept s s1 := by
      cases reads with
      | true => exact dmRead_kept hr
      | false => cases hr; exact .refl s
    split at h
    · cases h
    · rename_i s2 hw
      cases h
      refine k1.trans (DataKept.trans ?_ (setAcz_kept s2 _ _ _))
      cases hs : (f v).store with
      | none => rw [hs] at hw; cases hw; exact .refl _
      | some w => rw [hs] at hw; exact dmWrite_kept hw

/-- A one-nibble instruction that completes. -/
theorem nibbleOp_kept {reads : Bool} {o : Obj} {f : Nibble → Effect} {s t : State} (h : nibbleOp reads o f s = .next t) :
    DataKept s t := by
  unfold nibbleOp at h
  split at h
  · cases h
  · rename_i u hu
    cases h
    exact (accessNibble_kept hu).trans ((afterNibble_kept _ _ u).trans (setPc_kept _ _))

/-- A transfer into data memory that completes. -/
theorem byteLoad_kept {o : Ind} {src : Except Fault Byte} {len : Word} {s t : State} (h : byteLoad o src len s = .next t) :
    DataKept s t := by
  unfold byteLoad at h
  split at h
  · cases h
  split at h
  · cases h
  split at h
  · cases h
  · rename_i s1 h1
    split at h
    · cases h
    · rename_i s2 h2
      cases h
      exact (dmWriteByteHalf_kept h1).trans ((dmWriteByteHalf_kept h2).trans
        ((afterByte_kept _ _ _ s2).trans (setPc_kept _ _)))

/-- A transfer out of data memory that completes: external memory is changed by one canonical write. -/
theorem byteStore_kept {o : Ind} {dst len : Word} {s t : State} (h : byteStore o dst len s = .next t) :
    CoreKept s t ∧ t.dm = s.dm ∧ ∃ b, t.xm = Mem.write xmFill s.xm dst.toNat b := by
  unfold byteStore at h
  split at h
  · cases h
  split at h
  · cases h
  · rename_i lo s1 h1
    split at h
    · cases h
    · rename_i hi s2 h2
      split at h
      · cases h
      · rename_i s3 h3
        cases h
        obtain ⟨-, hs⟩ := xmWrite_ok h3
        have k3 : CoreKept s2 s3 := by subst hs; constructor <;> rfl
        have k := afterByte_kept o (ptrAddr s o.ptr) false s3
        refine ⟨(dmRead_kept h1).core.trans ((dmRead_kept h2).core.trans (k3.trans
          (k.trans (setPc_kept _ _)).core)), ?_, hi ++ lo, ?_⟩
        · have : s3.dm = s.dm := by subst hs; exact (dmRead_dm h2).trans (dmRead_dm h1)
          exact (afterByte_dm _ _ _ s3).trans this
        · have : s3.xm = Mem.write xmFill s.xm dst.toNat (hi ++ lo) := by
            subst hs; simp only [(dmRead_kept h2).xm, (dmRead_kept h1).xm]
          exact k.xm.trans this

/-! ### Interrupt entry and the step -/

/-- An accepted source is one of the table. -/
theorem bestEligible_mem {s : State} {l : List IrqSource} {src : IrqSource} (h : bestEligible s l = some src) : src ∈ l := by
  induction l generalizing src with
  | nil => cases h
  | cons a l ih =>
    unfold bestEligible at h
    split at h
    · split at h
      · cases h; exact List.mem_cons_self
      · cases h
    · rename_i b hb
      split at h
      · cases h; exact List.mem_cons_self
      · cases h; exact List.mem_cons_of_mem _ (ih hb)

/-- Everything interrupt entry can do when it answers. -/
theorem takeInterrupt_ok {src : IrqSource} {s t : State} (h : takeInterrupt src s = .ok t) :
    s.callRoom ∧ ∃ mie mieSaved requests, requests.Sublist s.requests ∧
      t = { s.withCallLevel (s.pc - 1) with
        mie := mie, mieSaved := mieSaved, halted := false, pc := src.vector, requests := requests } := by
  unfold takeInterrupt at h
  split at h
  · cases h
  · rename_i u hu
    obtain ⟨hr, rfl⟩ := callPush_ok hu
    refine ⟨hr, ?_⟩
    split at h <;> cases h <;> unfold acknowledge <;> split
    · exact ⟨_, _, _, List.filter_sublist, rfl⟩
    · exact ⟨_, _, _, List.Sublist.refl _, rfl⟩
    · exact ⟨_, _, _, List.filter_sublist, rfl⟩
    · exact ⟨_, _, _, List.Sublist.refl _, rfl⟩

/-- A step in which the core acts is the boundary of the state it acts in. -/
theorem step_of_coreActs {s u : State} (h : CoreActs s u) : step s = boundary u := by
  obtain ⟨h, rfl⟩ | ⟨rest, h, rfl⟩ := h <;> simp only [step, h]

/-- Everything a step can do when it answers: an event of the outside, an interrupt entry, a halted boundary, or the
instruction fetched. -/
theorem step_next {s t : State} (h : step s = .next t) :
    (∃ i rest, s.inputs = i :: rest ∧ i ≠ .quiet ∧ t = applyInput i { s with inputs := rest })
    ∨ ∃ u, CoreActs s u ∧
      ((∃ src, acceptedSource u = some src ∧ takeInterrupt src u = .ok t)
        ∨ (acceptedSource u = none ∧ u.halted = true ∧ t = haltedBoundary u)
        ∨ ∃ i, acceptedSource u = none ∧ u.halted = false ∧ fetch u = .ok i ∧ exec i u = .next t) := by
  have key : ∀ u, boundary u = .next t →
      ((∃ src, acceptedSource u = some src ∧ takeInterrupt src u = .ok t)
        ∨ (acceptedSource u = none ∧ u.halted = true ∧ t = haltedBoundary u)
        ∨ ∃ i, acceptedSource u = none ∧ u.halted = false ∧ fetch u = .ok i ∧ exec i u = .next t) := by
    intro u hb
    unfold boundary at hb
    split at hb
    · rename_i src ha
      cases ht : takeInterrupt src u with
      | error e => rw [ht] at hb; cases hb
      | ok v => rw [ht] at hb; cases hb; exact .inl ⟨src, ha, ht⟩
    · rename_i ha
      split at hb
      · cases hb; exact .inr (.inl ⟨ha, ‹_›, rfl⟩)
      · unfold runInstr at hb
        split at hb
        · cases hb
        · exact .inr (.inr ⟨_, ha, by simpa using ‹¬ u.halted = true›, ‹_›, hb⟩)
  cases hi : s.inputs with
  | nil =>
    have ha : CoreActs s s := .inl ⟨hi, rfl⟩
    exact .inr ⟨s, ha, key s (by rw [← step_of_coreActs ha]; exact h)⟩
  | cons i rest =>
    by_cases hq : i = .quiet
    · subst hq
      have ha : CoreActs s { s with inputs := rest } := .inr ⟨rest, hi, rfl⟩
      exact .inr ⟨_, ha, key _ (by rw [← step_of_coreActs ha]; exact h)⟩
    · refine .inl ⟨i, rest, rfl, hq, ?_⟩
      cases i <;> first | contradiction | (simp only [step, hi] at h; cases h; rfl)

/-! ### Where a two-nibble transfer stops -/

/-- A destination nibble at an address that does not answer stops the transfer. -/
theorem dmWriteByteHalf_silent {s : State} {a : DataAddr} (v : Nibble) (h : s.accessible a = false) :
    dmWriteByteHalf s a v = .error (noAnswer a) := by
  have hd : ({ s with draws := s.draws + 1 } : State).accessible a = false :=
    (State.accessible_congr (s := s) rfl a).trans h
  unfold dmWriteByteHalf
  split <;> rw [dmWrite_eq, if_neg] <;> simp only [h, hd, Bool.false_eq_true, not_false_eq_true]

/-- A destination nibble at an address that answers is written, and changes no parameter. -/
theorem dmWriteByteHalf_answers {s : State} {a : DataAddr} (v : Nibble) (h : s.accessible a = true) :
    ∃ t, dmWriteByteHalf s a v = .ok t ∧ t.params = s.params := by
  have hd : ({ s with draws := s.draws + 1 } : State).accessible a = true :=
    (State.accessible_congr (s := s) rfl a).trans h
  unfold dmWriteByteHalf
  split
  · exact ⟨_, (dmWrite_eq _ _ _).trans (if_pos hd), (State.poke_kept { s with draws := s.draws + 1 } _ _).kept.params⟩
  · exact ⟨_, (dmWrite_eq _ _ _).trans (if_pos h), (State.poke_kept s _ _).kept.params⟩

/-- A transfer into data memory stops at the first of its two addresses that does not answer. -/
theorem byteLoad_silent {o : Ind} {s : State} {ea1 d : DataAddr} (b : Byte) (len : Word)
    (h2 : SecondNibble s (ptrAddr s o.ptr) ea1) (h : FirstSilent s (ptrAddr s o.ptr) ea1 d) :
    byteLoad o (.ok b) len s = .fault (noAnswer d) := by
  unfold byteLoad
  rw [nextNibble_eq h2]
  obtain ⟨h, rfl⟩ | ⟨h, h1, rfl⟩ := h
  · simp only [dmWriteByteHalf_silent _ h]
  · obtain ⟨t, ht, hp⟩ := dmWriteByteHalf_answers (lowNibble b) h
    simp only [ht, dmWriteByteHalf_silent _ ((State.accessible_congr hp _).trans h1)]

/-- A transfer out of data memory stops at the first of its two addresses that does not answer. -/
theorem byteStore_silent {o : Ind} {s : State} {ea1 d : DataAddr} (dst len : Word)
    (h2 : SecondNibble s (ptrAddr s o.ptr) ea1) (h : FirstSilent s (ptrAddr s o.ptr) ea1 d) :
    byteStore o dst len s = .fault (noAnswer d) := by
  unfold byteStore
  rw [nextNibble_eq h2]
  obtain ⟨h, rfl⟩ | ⟨h, h1, rfl⟩ := h
  · simp only [dmRead_eq, h, Bool.false_eq_true, if_false]
  · have hd : ({ s with dev := devRead s.dev (ptrAddr s o.ptr) } : State).accessible d = false :=
      (State.accessible_congr (s := s) rfl d).trans h1
    simp only [dmRead_eq, h, hd, Bool.false_eq_true, if_true, if_false]

/-! ### Data RAM after a reset -/

/-- The memory after the draws of a reset keeps its canonical form. -/
theorem drawRam_wf (l : List (DataAddr × Nibble)) {dm : Mem Nibble} (h : Mem.wf dmFill 0x100 0x1000 dm = true) :
    Mem.wf dmFill 0x100 0x1000 (drawRam dm l) = true := by
  induction l generalizing dm with
  | nil => exact h
  | cons p l ih =>
    refine ih ?_
    split
    · exact Mem.wf_write h ((dmCell_eq_ram_iff _).1 ‹_›) p.1.isLt
    · exact h

/-- What a data RAM nibble reads as after the draws of a reset: its last draw, or what it was. -/
theorem read_drawRam (l : List (DataAddr × Nibble)) {dm : Mem Nibble} (h : Mem.wf dmFill 0x100 0x1000 dm = true)
    {a : DataAddr} (ha : 0x100 ≤ a.toNat) :
    Mem.read dmFill (drawRam dm l) a.toNat = (l.reverse.lookup a).getD (Mem.read dmFill dm a.toNat) := by
  induction l generalizing dm with
  | nil => rfl
  | cons p l ih =>
    obtain ⟨b, v⟩ := p
    have hw := drawRam_wf [(b, v)] h
    simp only [drawRam] at hw ⊢
    rw [ih hw, List.reverse_cons, List.lookup_append]
    cases l.reverse.lookup a with
    | some w => rfl
    | none =>
      simp only [Option.none_or, Option.getD_none, List.lookup_cons, List.lookup_nil]
      by_cases hab : a = b
      · subst hab
        simp [(dmCell_eq_ram_iff a).2 ha, Mem.read_write_same h]
      · have hne : a.toNat ≠ b.toNat := fun e => hab (BitVec.eq_of_toNat_eq e)
        rw [beq_false_of_ne hab]
        split
        · exact Mem.read_write_ne hne
        · rfl

end Sys2Proof.Machine
end

