-- ==== Sys2Proof/Laws/PerInstr.lean ====
section
/-! SUPPORT. The family EncodeLength: the encoder gives an instruction as many words as its format has (R122 to R138). One
lemma for each constructor of Instr. -/

namespace Sys2Proof.Laws

/-- The encoding of `i` has `i.words` words. -/
def EncodeLength.Statement (i : Instr) : Prop := (encode i).length = i.words

theorem EncodeLength.movObjA (o : DirObj) : EncodeLength.Statement (.movObjA o) := rfl
theorem EncodeLength.movAObj (o : DirObj) : EncodeLength.Statement (.movAObj o) := rfl
theorem EncodeLength.movAImm (i : Nibble) : EncodeLength.Statement (.movAImm i) := rfl
theorem EncodeLength.movObjImm (o : CurObj) (i : Nibble) : EncodeLength.Statement (.movObjImm o i) := rfl
theorem EncodeLength.xch (o : SfrObj) : EncodeLength.Statement (.xch o) := rfl
theorem EncodeLength.rol (o : SfrObj) : EncodeLength.Statement (.rol o) := rfl
theorem EncodeLength.ror (o : SfrObj) : EncodeLength.Statement (.ror o) := rfl
theorem EncodeLength.inc (o : SfrObj) : EncodeLength.Statement (.inc o) := rfl
theorem EncodeLength.dec (o : SfrObj) : EncodeLength.Statement (.dec o) := rfl
theorem EncodeLength.addA (o : SfrObj) : EncodeLength.Statement (.addA o) := rfl
theorem EncodeLength.addImm (o : CurObj) (i : Nibble) : EncodeLength.Statement (.addImm o i) := rfl
theorem EncodeLength.adc (o : SfrObj) : EncodeLength.Statement (.adc o) := rfl
theorem EncodeLength.adcd (o : SfrObj) : EncodeLength.Statement (.adcd o) := rfl
theorem EncodeLength.adcj (o : CurObj) (n : Base) : EncodeLength.Statement (.adcj o n) := rfl
theorem EncodeLength.subA (o : SfrObj) : EncodeLength.Statement (.subA o) := rfl
theorem EncodeLength.subImm (o : CurObj) (i : Nibble) : EncodeLength.Statement (.subImm o i) := rfl
theorem EncodeLength.sbc (o : SfrObj) : EncodeLength.Statement (.sbc o) := rfl
theorem EncodeLength.sbcd (o : SfrObj) : EncodeLength.Statement (.sbcd o) := rfl
theorem EncodeLength.sbcj (o : CurObj) (n : Base) : EncodeLength.Statement (.sbcj o n) := rfl
theorem EncodeLength.cmpA (o : SfrObj) : EncodeLength.Statement (.cmpA o) := rfl
theorem EncodeLength.cmpImm (o : CurObj) (i : Nibble) : EncodeLength.Statement (.cmpImm o i) := rfl
theorem EncodeLength.andA (o : SfrObj) : EncodeLength.Statement (.andA o) := rfl
theorem EncodeLength.andImm (o : CurObj) (i : Nibble) : EncodeLength.Statement (.andImm o i) := rfl
theorem EncodeLength.orA (o : SfrObj) : EncodeLength.Statement (.orA o) := rfl
theorem EncodeLength.orImm (o : CurObj) (i : Nibble) : EncodeLength.Statement (.orImm o i) := rfl
theorem EncodeLength.xorA (o : SfrObj) : EncodeLength.Statement (.xorA o) := rfl
theorem EncodeLength.xorImm (o : CurObj) (i : Nibble) : EncodeLength.Statement (.xorImm o i) := rfl
theorem EncodeLength.mclr (o : CurObj) (m : Nibble) : EncodeLength.Statement (.mclr o m) := rfl
theorem EncodeLength.mset (o : CurObj) (m : Nibble) : EncodeLength.Statement (.mset o m) := rfl
theorem EncodeLength.mnot (o : CurObj) (m : Nibble) : EncodeLength.Statement (.mnot o m) := rfl
theorem EncodeLength.mtstA (o : SfrObj) : EncodeLength.Statement (.mtstA o) := rfl
theorem EncodeLength.mtstImm (o : CurObj) (m : Nibble) : EncodeLength.Statement (.mtstImm o m) := rfl
theorem EncodeLength.mmov (p : Ptr) (m : Nibble) (n : BitVec 2) : EncodeLength.Statement (.mmov p m n) := rfl
theorem EncodeLength.bclr (o : CurObj) (n : BitVec 2) : EncodeLength.Statement (.bclr o n) := rfl
theorem EncodeLength.bset (o : CurObj) (n : BitVec 2) : EncodeLength.Statement (.bset o n) := rfl
theorem EncodeLength.bnot (o : CurObj) (n : BitVec 2) : EncodeLength.Statement (.bnot o n) := rfl
theorem EncodeLength.btst (o : CurObj) (n : BitVec 2) : EncodeLength.Statement (.btst o n) := rfl
theorem EncodeLength.bmov (p : Ptr) (n1 n2 : BitVec 2) : EncodeLength.Statement (.bmov p n1 n2) := rfl
theorem EncodeLength.movhbRA (o : Ind) : EncodeLength.Statement (.movhbRA o) := rfl
theorem EncodeLength.movhbAbs (o : Ind) (cadr : Word) : EncodeLength.Statement (.movhbAbs o cadr) := rfl
theorem EncodeLength.movlbRA (o : Ind) : EncodeLength.Statement (.movlbRA o) := rfl
theorem EncodeLength.movlbAbs (o : Ind) (cadr : Word) : EncodeLength.Statement (.movlbAbs o cadr) := rfl
theorem EncodeLength.movxbLoadRA (o : Ind) : EncodeLength.Statement (.movxbLoadRA o) := rfl
theorem EncodeLength.movxbLoadAbs (o : Ind) (xadr : Word) : EncodeLength.Statement (.movxbLoadAbs o xadr) := rfl
theorem EncodeLength.movxbStoreRA (o : Ind) : EncodeLength.Statement (.movxbStoreRA o) := rfl
theorem EncodeLength.movxbStoreAbs (xadr : Word) (o : Ind) : EncodeLength.Statement (.movxbStoreAbs xadr o) := rfl
theorem EncodeLength.pushHL : EncodeLength.Statement .pushHL := rfl
theorem EncodeLength.pushXY : EncodeLength.Statement .pushXY := rfl
theorem EncodeLength.popHL : EncodeLength.Statement .popHL := rfl
theorem EncodeLength.popXY : EncodeLength.Statement .popXY := rfl
theorem EncodeLength.fclrC : EncodeLength.Statement .fclrC := rfl
theorem EncodeLength.fclrZ : EncodeLength.Statement .fclrZ := rfl
theorem EncodeLength.fclrG : EncodeLength.Statement .fclrG := rfl
theorem EncodeLength.fclrFlag : EncodeLength.Statement .fclrFlag := rfl
theorem EncodeLength.fsetC : EncodeLength.Statement .fsetC := rfl
theorem EncodeLength.fsetZ : EncodeLength.Statement .fsetZ := rfl
theorem EncodeLength.fsetG : EncodeLength.Statement .fsetG := rfl
theorem EncodeLength.fsetFlag : EncodeLength.Statement .fsetFlag := rfl
theorem EncodeLength.jmp (cadr : BitVec 12) : EncodeLength.Statement (.jmp cadr) := rfl
theorem EncodeLength.ljmp (cadr : Word) : EncodeLength.Statement (.ljmp cadr) := rfl
theorem EncodeLength.sjmp (radr : BitVec 8) : EncodeLength.Statement (.sjmp radr) := rfl
theorem EncodeLength.jmpPcA : EncodeLength.Statement .jmpPcA := rfl
theorem EncodeLength.bc (radr : BitVec 8) : EncodeLength.Statement (.bc radr) := rfl
theorem EncodeLength.blt (radr : BitVec 8) : EncodeLength.Statement (.blt radr) := rfl
theorem EncodeLength.bnc (radr : BitVec 8) : EncodeLength.Statement (.bnc radr) := rfl
theorem EncodeLength.bge (radr : BitVec 8) : EncodeLength.Statement (.bge radr) := rfl
theorem EncodeLength.bz (radr : BitVec 8) : EncodeLength.Statement (.bz radr) := rfl
theorem EncodeLength.beq (radr : BitVec 8) : EncodeLength.Statement (.beq radr) := rfl
theorem EncodeLength.bnz (radr : BitVec 8) : EncodeLength.Statement (.bnz radr) := rfl
theorem EncodeLength.bne (radr : BitVec 8) : EncodeLength.Statement (.bne radr) := rfl
theorem EncodeLength.ble (radr : BitVec 8) : EncodeLength.Statement (.ble radr) := rfl
theorem EncodeLength.bgt (radr : BitVec 8) : EncodeLength.Statement (.bgt radr) := rfl
theorem EncodeLength.bng (radr : BitVec 8) : EncodeLength.Statement (.bng radr) := rfl
theorem EncodeLength.cal (cadr : BitVec 12) : EncodeLength.Statement (.cal cadr) := rfl
theorem EncodeLength.lcal (cadr : Word) : EncodeLength.Statement (.lcal cadr) := rfl
theorem EncodeLength.rt : EncodeLength.Statement .rt := rfl
theorem EncodeLength.rti : EncodeLength.Statement .rti := rfl
theorem EncodeLength.rtnmi : EncodeLength.Statement .rtnmi := rfl
theorem EncodeLength.movReg (r : Reg4) (i : Nibble) : EncodeLength.Statement (.movReg r i) := rfl
theorem EncodeLength.incbHL : EncodeLength.Statement .incbHL := rfl
theorem EncodeLength.incbXY : EncodeLength.Statement .incbXY := rfl
theorem EncodeLength.incwRA : EncodeLength.Statement .incwRA := rfl
theorem EncodeLength.msa (cadr : Word) : EncodeLength.Statement (.msa cadr) := rfl
theorem EncodeLength.halt : EncodeLength.Statement .halt := rfl
theorem EncodeLength.nop : EncodeLength.Statement .nop := rfl
theorem EncodeLength.ei : EncodeLength.Statement .ei := rfl
theorem EncodeLength.di : EncodeLength.Statement .di := rfl

end Sys2Proof.Laws
end

