-- ==== Sys2Proof/Laws/Run.lean ====
section
/-! SUPPORT. What a terminal state does, and how runs of `runFor` and `afterSteps` compose (R541). -/

namespace Sys2Proof.Machine

/-- The best eligible source of a table is eligible. -/
theorem bestEligible_eligible {s : State} {l : List IrqSource} {src : IrqSource} (h : bestEligible s l = some src) :
    eligible s src = true := by
  induction l generalizing src with
  | nil => cases h
  | cons a l ih =>
    unfold bestEligible at h
    split at h
    · split at h <;> cases h; assumption
    · split at h <;> cases h
      · simp_all
      · exact ih ‹_›

/-- A terminal state, spelled out. -/
theorem isTerminal_iff {s : State} : s.isTerminal = true ↔
    s.halted = true ∧ (∀ i ∈ s.inputs, i.isReset = false)
      ∧ ∀ src ∈ s.params.irq, endsHalt s src = true → asksEver s src = false := by
  simp only [State.isTerminal, Bool.and_eq_true, Bool.not_eq_true', List.any_eq_false, List.all_eq_true,
    Bool.and_eq_false_iff, and_assoc, Bool.not_eq_true]
  refine and_congr_right fun _ => and_congr_right fun _ => forall₂_congr fun src _ => ?_
  cases endsHalt s src <;> simp

/-- The outside's next input keeps a state terminal, and changes nothing of the core. -/
theorem isTerminal_applyInput {s : State} {i : Input} {rest : List Input} (h : s.isTerminal = true)
    (hi : s.inputs = i :: rest) :
    (applyInput i { s with inputs := rest }).isTerminal = true
      ∧ ∃ q d x, applyInput i { s with inputs := rest } = { s with inputs := rest, requests := q, dev := d, xm := x } := by
  obtain ⟨hh, hr, hs⟩ := isTerminal_iff.1 h
  rw [hi] at hr
  have hr' : ∀ j ∈ rest, j.isReset = false := fun j hj => hr j (List.mem_cons_of_mem _ hj)
  have ask : ∀ src ∈ s.params.irq, endsHalt s src = true →
      src.name ∉ s.requests ∧ i ≠ .request src.name ∧ .request src.name ∉ rest := by
    intro src hm he
    have := hs src hm he
    simp only [asksEver, hi, Bool.or_eq_false_iff, List.contains_eq_mem, decide_eq_false_iff_not, List.mem_cons,
      not_or] at this
    exact ⟨this.1, fun e => this.2.1 e.symm, this.2.2⟩
  have done : ∀ q d x, (∀ n ∈ q, n ∈ s.requests ∨ i = .request n) →
      ({ s with inputs := rest, requests := q, dev := d, xm := x } : State).isTerminal = true := by
    intro q d x hq
    refine isTerminal_iff.2 ⟨hh, hr', fun src hm he => ?_⟩
    obtain ⟨h1, h2, h3⟩ := ask src hm he
    simp only [asksEver, Bool.or_eq_false_iff, List.contains_eq_mem, decide_eq_false_iff_not]
    exact ⟨fun hc => (hq _ hc).elim h1 h2, h3⟩
  cases i with
  | reset draw => exact absurd (hr _ List.mem_cons_self) (by simp [Input.isReset])
  | quiet => exact ⟨done _ _ _ fun n hn => .inl hn, _, _, _, rfl⟩
  | request n =>
    refine ⟨done _ _ _ fun m hm => ?_, _, _, _, rfl⟩
    split at hm
    · exact .inl hm
    · exact (List.mem_cons.1 hm).elim (fun e => .inr (by rw [e])) .inl
  | withdraw n => exact ⟨done _ _ _ fun m hm => .inl (List.mem_of_mem_filter hm), _, _, _, rfl⟩
  | device d => exact ⟨done _ _ _ fun n hn => .inl hn, _, _, _, rfl⟩
  | external a b => exact ⟨done _ _ _ fun n hn => .inl hn, _, _, _, rfl⟩

/-- A boundary of a terminal state changes nothing. -/
theorem boundary_terminal {s : State} (h : s.isTerminal = true) : boundary s = .next s := by
  obtain ⟨hh, -, hs⟩ := isTerminal_iff.1 h
  have quiet : ∀ src ∈ s.params.irq, endsHalt s src = true → src.name ∉ s.requests := by
    intro src hm he
    have := hs src hm he
    simp only [asksEver, Bool.or_eq_false_iff, List.contains_eq_mem, decide_eq_false_iff_not] at this
    exact this.1
  have none_accepted : acceptedSource s = none := by
    cases ha : acceptedSource s with
    | none => rfl
    | some src =>
      have he := bestEligible_eligible ha
      simp only [eligible, Bool.and_eq_true, List.contains_eq_mem, decide_eq_true_eq] at he
      exact absurd he.1 (quiet src (bestEligible_mem ha) (by simp [endsHalt, he.2]))
  have no_wake : wakesWithoutEntry s = false := by
    by_contra hw
    simp only [wakesWithoutEntry, Bool.not_eq_false, Bool.and_eq_true, List.any_eq_true, List.contains_eq_mem,
      decide_eq_true_eq] at hw
    obtain ⟨hp, src, hm, hq, -⟩ := hw
    exact quiet src hm (by simp [endsHalt, hp]) hq
  simp [boundary, none_accepted, hh, haltedBoundary, no_wake]

/-- Everything a step of a terminal state does: it answers, the state stays terminal, and nothing of the core changes. -/
theorem step_terminal {s : State} (h : s.isTerminal = true) :
    ∃ t, step s = .next t ∧ t.isTerminal = true
      ∧ ∃ i q d x, t = { s with inputs := i, requests := q, dev := d, xm := x } := by
  cases hi : s.inputs with
  | nil =>
    exact ⟨s, by rw [step_of_coreActs (.inl ⟨hi, rfl⟩), boundary_terminal h], h, _, _, _, _, rfl⟩
  | cons i rest =>
    obtain ⟨ht, q, d, x, he⟩ := isTerminal_applyInput h hi
    by_cases hq : i = .quiet
    · subst hq
      exact ⟨_, (step_of_coreActs (.inr ⟨rest, hi, rfl⟩)).trans (boundary_terminal ht), ht, _, _, _, _, he⟩
    · refine ⟨_, ?_, ht, _, _, _, _, he⟩
      cases i <;> first | contradiction | simp only [step, hi]

end Sys2Proof.Machine
end

