-- ==== Sys2Proof/Tests/Slice0.lean ====
section
/-! SUPPORT. The model's own tests. The expected results are those of the spec: the test vectors V1 to V204 and I1 to I10 of
95_test_vectors.md, and words written out from the encoding tables of 30_encoding.md. -/

namespace Sys2Proof.Tests

open Sys2Proof Sys2Proof.Machine

/-- The state every vector of 95_test_vectors.md starts from. -/
def base : State := { State.reset with cbr := 1, ebr := 2, pc := 0x0200 }

/-- The words of an instruction stored at PC. -/
def atPc (ws : List Word) (s : State) : State :=
  match ws with
  | [] => s
  | [w] => { s with pm := Mem.write pmFill s.pm s.pc.toNat w }
  | w :: v :: _ => { s with pm := Mem.write pmFill (Mem.write pmFill s.pm s.pc.toNat w) (s.pc.toNat + 1) v }

/-- One step at the words gives a next state of which `p` holds. -/
def gives (ws : List Word) (s : State) (p : State → Bool) : Bool :=
  match step (atPc ws s) with
  | .next t => p t
  | _ => false

/-- One step at the words stops with this fault. -/
def stops (ws : List Word) (s : State) (f : Fault) : Bool :=
  match step (atPc ws s) with
  | .fault e => e == f
  | _ => false

/-! ### One instruction each (95_test_vectors.md section 3) -/

/-- V2: MOV 0FDH,A -/
theorem test_v2_mov : gives [0xC0FD] { base with a := 0x5 } (fun t =>
    t.a == 0x5 && !t.c && !t.z && !t.g && t.cbr == 0x5 && t.pc == 0x0201) = true := by decide

/-- V5: MOV [HL+],A -/
theorem test_v5_mov : gives [0x0428] { base with a := 0x7, h := 0xF, l := 0xF, g := false } (fun t =>
    t.a == 0x7 && !t.c && !t.z && t.g && t.h == 0x0 && t.l == 0x0 && t.peek 0x1FF == 0x7
      && t.pc == 0x0201) = true := by decide

/-- V8: MOV A,0F8H -/
theorem test_v8_mov : gives [0xD0F8] { base with sp := 17 } (fun t =>
    t.a == 0xF && !t.c && !t.z && !t.g && t.pc == 0x0201) = true := by decide

/-- V12: MOV A,E:[HL+] -/
theorem test_v12_mov : gives [0x0308] { base with h := 0x0, l := 0xF, a := 0x9 } (fun t =>
    t.a == 0x0 && !t.c && t.z && !t.g && t.h == 0x1 && t.l == 0x0 && t.pc == 0x0201) = true := by decide

/-- V13: MOV A,#0 -/
theorem test_v13_mov : gives [0x01C0] { base with a := 0x9 } (fun t =>
    t.a == 0x0 && !t.c && t.z && !t.g && t.pc == 0x0201) = true := by decide

/-- V15: MOV ¥32H,#5 -/
theorem test_v15_mov : gives [0x4532] { base with cbr := 0x3, z := true } (fun t =>
    t.a == 0x5 && !t.c && !t.z && !t.g && t.peek 0x332 == 0x5 && t.pc == 0x0201) = true := by decide

/-- V17: MOV E:[HL+],#0 -/
theorem test_v17_mov : gives [0x0740] { base with h := 0x3, l := 0xF, a := 0x7, g := true } (fun t =>
    t.a == 0x0 && !t.c && t.z && !t.g && t.h == 0x4 && t.l == 0x0 && t.peek 0x23F == 0x0
      && t.pc == 0x0201) = true := by decide

/-- V18: XCH A,¥10H -/
theorem test_v18_xch : gives [0x3E10] { base with a := 0x0, z := false, c := true, dm := [(0x110, 0x6)] } (fun t =>
    t.a == 0x6 && t.c && !t.z && !t.g && t.peek 0x110 == 0x0 && t.pc == 0x0201) = true := by decide

/-- V19: XCH A,0FBH -/
theorem test_v19_xch : gives [0x2EFB] { base with a := 0xA, l := 0x4 } (fun t =>
    t.a == 0x4 && !t.c && !t.z && !t.g && t.l == 0xA && t.pc == 0x0201) = true := by decide

/-- V21: ROL ¥00H -/
theorem test_v21_rol : gives [0x3200] { base with c := false, dm := [(0x100, 0x9)] } (fun t =>
    t.a == 0x2 && t.c && !t.z && !t.g && t.peek 0x100 == 0x2 && t.pc == 0x0201) = true := by decide

/-- V23: ROL [HL] -/
theorem test_v23_rol : gives [0x0426] { base with h := 0x0, l := 0x5, c := true, dm := [(0x105, 0x7)] } (fun t =>
    t.a == 0xF && !t.c && !t.z && !t.g && t.peek 0x105 == 0xF && t.pc == 0x0201) = true := by decide

/-- V25: ROR E:[HL] -/
theorem test_v25_ror : gives [0x0407] { base with h := 0x0, l := 0x5, c := true, dm := [(0x205, 0x6)] } (fun t =>
    t.a == 0xB && !t.c && !t.z && !t.g && t.peek 0x205 == 0xB && t.pc == 0x0201) = true := by decide

/-- V26: ROR 0F2H -/
theorem test_v26_ror : gives [0x23F2] { base with ra0 := 0x3, c := false } (fun t =>
    t.a == 0x1 && t.c && !t.z && !t.g && t.ra3 ++ t.ra2 ++ t.ra1 ++ t.ra0 == (0x0001 : Word)
      && t.pc == 0x0201) = true := by decide

/-- V27: INC ¥32H -/
theorem test_v27_inc : gives [0x3032] { base with dm := [(0x132, 0xF)] } (fun t =>
    t.a == 0x0 && t.c && t.z && !t.g && t.peek 0x132 == 0x0 && t.pc == 0x0201) = true := by decide

/-- V30: INC 0F6H -/
theorem test_v30_inc : gives [0x20F6] { base with rsp := 15 } (fun t =>
    t.a == 0x0 && t.c && t.z && !t.g && t.rsp == 0 && t.pc == 0x0201) = true := by decide

/-- V31: DEC [XY] -/
theorem test_v31_dec : gives [0x0531] { base with x := 0x4, y := 0x4 } (fun t =>
    t.a == 0xF && t.c && !t.z && !t.g && t.peek 0x144 == 0xF && t.pc == 0x0201) = true := by decide

/-- V33: DEC E:[XY+] -/
theorem test_v33_dec : gives [0x0519] { base with x := 0x0, y := 0xE, dm := [(0x20E, 0x8)] } (fun t =>
    t.a == 0x7 && !t.c && !t.z && !t.g && t.y == 0xF && t.peek 0x20E == 0x7
      && t.pc == 0x0201) = true := by decide

/-- V34: ADD ¥10H,A -/
theorem test_v34_add : gives [0x3410] { base with a := 0x7, c := true, dm := [(0x110, 0x8)] } (fun t =>
    t.a == 0xF && !t.c && !t.z && !t.g && t.peek 0x110 == 0xF && t.pc == 0x0201) = true := by decide

/-- V35: ADD ¥10H,A -/
theorem test_v35_add : gives [0x3410] { base with a := 0x8, dm := [(0x110, 0x8)] } (fun t =>
    t.a == 0x0 && t.c && t.z && !t.g && t.peek 0x110 == 0x0 && t.pc == 0x0201) = true := by decide

/-- V36: ADD [HL],#0FH -/
theorem test_v36_add : gives [0x00AF] { base with h := 0x2, l := 0x0, dm := [(0x120, 0x1)] } (fun t =>
    t.a == 0x0 && t.c && t.z && !t.g && t.peek 0x120 == 0x0 && t.pc == 0x0201) = true := by decide

/-- V38: ADD E:[HL+],#1 -/
theorem test_v38_add : gives [0x0181] { base with h := 0xF, l := 0xF, dm := [(0x2FF, 0xF)] } (fun t =>
    t.a == 0x0 && t.c && t.z && t.g && t.h == 0x0 && t.l == 0x0 && t.peek 0x2FF == 0x0
      && t.pc == 0x0201) = true := by decide

/-- V40: ADC [XY],A -/
theorem test_v40_adc :
    gives [0x0533] { base with a := 0xF, x := 0x0, y := 0x1, c := true, dm := [(0x101, 0xF)] } (fun t =>
    t.a == 0xF && t.c && !t.z && !t.g && t.pc == 0x0201) = true := by decide

/-- V41: ADC 0F9H,A -/
theorem test_v41_adc : gives [0x25F9] { base with a := 0x2, y := 0x3, c := false } (fun t =>
    t.a == 0x5 && !t.c && !t.z && !t.g && t.y == 0x5 && t.pc == 0x0201) = true := by decide

/-- V43: ADCD ¥10H,A -/
theorem test_v43_adcd : gives [0x3610] { base with a := 0x4, c := true, dm := [(0x110, 0x5)] } (fun t =>
    t.a == 0x0 && t.c && t.z && !t.g && t.peek 0x110 == 0x0 && t.pc == 0x0201) = true := by decide

/-- V46: ADCD ¥10H,A -/
theorem test_v46_adcd : gives [0x3610] { base with a := 0xF, c := true, dm := [(0x110, 0xF)] } (fun t =>
    t.a == 0x5 && t.c && !t.z && !t.g && t.peek 0x110 == 0x5 && t.pc == 0x0201) = true := by decide

/-- V49: ADCJ ¥10H,10 -/
theorem test_v49_adcj : gives [0x1510] { base with c := false, dm := [(0x110, 0xC)] } (fun t =>
    t.a == 0x2 && t.c && !t.z && !t.g && t.peek 0x110 == 0x2 && t.pc == 0x0201) = true := by decide

/-- V52: ADCJ [XY+],16 -/
theorem test_v52_adcj : gives [0x0730] { base with x := 0x3, y := 0x0, c := true, dm := [(0x130, 0xF)] } (fun t =>
    t.a == 0x0 && t.c && t.z && !t.g && t.y == 0x1 && t.peek 0x130 == 0x0
      && t.pc == 0x0201) = true := by decide

/-- V55: SUB ¥10H,A -/
theorem test_v55_sub : gives [0x3710] { base with a := 0x5, dm := [(0x110, 0x3)] } (fun t =>
    t.a == 0xE && t.c && !t.z && !t.g && t.peek 0x110 == 0xE && t.pc == 0x0201) = true := by decide

/-- V57: SUB [HL],#1 -/
theorem test_v57_sub : gives [0x02A1] { base with h := 0x2, l := 0x0 } (fun t =>
    t.a == 0xF && t.c && !t.z && !t.g && t.peek 0x120 == 0xF && t.pc == 0x0201) = true := by decide

/-- V58: SUB ¥10H,#9 -/
theorem test_v58_sub : gives [0x9910] { base with dm := [(0x110, 0xC)] } (fun t =>
    t.a == 0x3 && !t.c && !t.z && !t.g && t.peek 0x110 == 0x3 && t.pc == 0x0201) = true := by decide

/-- V59: SBC ¥10H,A -/
theorem test_v59_sbc : gives [0x3810] { base with a := 0x5, c := true, dm := [(0x110, 0x5)] } (fun t =>
    t.a == 0xF && t.c && !t.z && !t.g && t.peek 0x110 == 0xF && t.pc == 0x0201) = true := by decide

/-- V60: SBC ¥10H,A -/
theorem test_v60_sbc : gives [0x3810] { base with a := 0xF, c := true } (fun t =>
    t.a == 0x0 && t.c && t.z && !t.g && t.pc == 0x0201) = true := by decide

/-- V62: SBCD ¥10H,A -/
theorem test_v62_sbcd : gives [0x3910] { base with a := 0x7, c := false, dm := [(0x110, 0x3)] } (fun t =>
    t.a == 0x6 && t.c && !t.z && !t.g && t.peek 0x110 == 0x6 && t.pc == 0x0201) = true := by decide

/-- V63: SBCD ¥10H,A -/
theorem test_v63_sbcd : gives [0x3910] { base with a := 0x9, c := true } (fun t =>
    t.a == 0x0 && t.c && t.z && !t.g && t.pc == 0x0201) = true := by decide

/-- V69: SBCJ [HL],6 -/
theorem test_v69_sbcj : gives [0x062B] { base with h := 0x3, l := 0x0, c := true } (fun t =>
    t.a == 0x5 && t.c && !t.z && !t.g && t.peek 0x130 == 0x5 && t.pc == 0x0201) = true := by decide

/-- V71: SBCJ ¥10H,10 -/
theorem test_v71_sbcj : gives [0x1D10] { base with c := false, dm := [(0x110, 0xF)] } (fun t =>
    t.a == 0xF && !t.c && !t.z && !t.g && t.pc == 0x0201) = true := by decide

/-- V73: CMP ¥10H,A -/
theorem test_v73_cmp : gives [0x3A10] { base with a := 0x6, dm := [(0x110, 0x5)] } (fun t =>
    t.a == 0x6 && t.c && !t.z && !t.g && t.pc == 0x0201) = true := by decide

/-- V77: CMP 0F6H,A -/
theorem test_v77_cmp : gives [0x2AF6] { base with a := 0x2, rsp := 2 } (fun t =>
    t.a == 0x2 && !t.c && t.z && !t.g && t.pc == 0x0201) = true := by decide

/-- V75: CMP [HL+],#0 -/
theorem test_v75_cmp : gives [0x07A0] { base with a := 0x9, h := 0x2, l := 0x0 } (fun t =>
    t.a == 0x9 && !t.c && t.z && !t.g && t.l == 0x1 && t.pc == 0x0201) = true := by decide

/-- V76: CMP E:[XY],#0FH -/
theorem test_v76_cmp : gives [0x069F] { base with x := 0x2, y := 0x0, dm := [(0x220, 0xE)] } (fun t =>
    t.a == 0x0 && t.c && !t.z && !t.g && t.pc == 0x0201) = true := by decide

/-- V78: AND E:[XY],A -/
theorem test_v78_and :
    gives [0x0411] { base with a := 0xC, x := 0x3, y := 0x3, c := true, dm := [(0x233, 0xA)] } (fun t =>
    t.a == 0x8 && t.c && !t.z && !t.g && t.peek 0x233 == 0x8 && t.pc == 0x0201) = true := by decide

/-- V79: AND ¥10H,#3 -/
theorem test_v79_and : gives [0x5310] { base with a := 0x5, dm := [(0x110, 0xC)] } (fun t =>
    t.a == 0x0 && !t.c && t.z && !t.g && t.peek 0x110 == 0x0 && t.pc == 0x0201) = true := by decide

/-- V80: OR [HL],A -/
theorem test_v80_or :
    gives [0x0422] { base with a := 0x1, h := 0x2, l := 0x0, z := true, dm := [(0x120, 0x8)] } (fun t =>
    t.a == 0x9 && !t.c && !t.z && !t.g && t.peek 0x120 == 0x9 && t.pc == 0x0201) = true := by decide

/-- V81: OR ¥10H,#0 -/
theorem test_v81_or : gives [0x6010] { base with a := 0x7 } (fun t =>
    t.a == 0x0 && !t.c && t.z && !t.g && t.pc == 0x0201) = true := by decide

/-- V82: XOR [XY+],A -/
theorem test_v82_xor : gives [0x043B] { base with a := 0xF, x := 0xF, y := 0xE, dm := [(0x1FE, 0xF)] } (fun t =>
    t.a == 0x0 && !t.c && t.z && !t.g && t.y == 0xF && t.peek 0x1FE == 0x0
      && t.pc == 0x0201) = true := by decide

/-- V83: XOR E:[HL],#5 -/
theorem test_v83_xor : gives [0x0045] { base with h := 0x2, l := 0x0, dm := [(0x220, 0xA)] } (fun t =>
    t.a == 0xF && !t.c && !t.z && !t.g && t.peek 0x220 == 0xF && t.pc == 0x0201) = true := by decide

/-- V84: MCLR ¥10H,#9 -/
theorem test_v84_mclr : gives [0x5910] { base with dm := [(0x110, 0xF)] } (fun t =>
    t.a == 0x9 && !t.c && !t.z && !t.g && t.peek 0x110 == 0x9 && t.pc == 0x0201) = true := by decide

/-- V85: MSET [HL],#0CH -/
theorem test_v85_mset : gives [0x026C] { base with h := 0x1, l := 0x1, dm := [(0x111, 0x1)] } (fun t =>
    t.a == 0xD && !t.c && !t.z && !t.g && t.peek 0x111 == 0xD && t.pc == 0x0201) = true := by decide

/-- V86: MNOT E:[XY+],#0FH -/
theorem test_v86_mnot : gives [0x015F] { base with x := 0x1, y := 0x1, dm := [(0x211, 0xF)] } (fun t =>
    t.a == 0x0 && !t.c && t.z && !t.g && t.y == 0x2 && t.peek 0x211 == 0x0
      && t.pc == 0x0201) = true := by decide

/-- V87: MTST 0F5H,A -/
theorem test_v87_mtst : gives [0x2FF5] { base with a := 0x3, ra3 := 0x7 } (fun t =>
    t.a == 0x3 && !t.c && !t.z && !t.g && t.pc == 0x0201) = true := by decide

/-- V89: MTST ¥10H,A -/
theorem test_v89_mtst : gives [0x3F10] { base with a := 0x0, z := true } (fun t =>
    t.a == 0x0 && !t.c && !t.z && !t.g && t.pc == 0x0201) = true := by decide

/-- V90: MTST [HL],#0AH -/
theorem test_v90_mtst :
    gives [0x04AA] { base with h := 0x1, l := 0x1, z := true, a := 0x4, dm := [(0x111, 0xE)] } (fun t =>
    t.a == 0x4 && !t.c && !t.z && !t.g && t.pc == 0x0201) = true := by decide

/-- V91: MTST [HL],#0AH -/
theorem test_v91_mtst : gives [0x04AA] { base with h := 0x1, l := 0x1, dm := [(0x111, 0x8)] } (fun t =>
    t.a == 0x0 && !t.c && t.z && !t.g && t.pc == 0x0201) = true := by decide

/-- V92: BCLR ¥10H.2 -/
theorem test_v92_bclr : gives [0x5B10] { base with dm := [(0x110, 0xF)] } (fun t =>
    t.a == 0xB && !t.c && !t.z && !t.g && t.peek 0x110 == 0xB && t.pc == 0x0201) = true := by decide

/-- V93: BCLR [HL].0 -/
theorem test_v93_bclr : gives [0x046E] { base with h := 0x1, l := 0x1, dm := [(0x111, 0x1)] } (fun t =>
    t.a == 0x0 && !t.c && t.z && !t.g && t.peek 0x111 == 0x0 && t.pc == 0x0201) = true := by decide

/-- V94: BSET ¥10H.3 -/
theorem test_v94_bset : gives [0x6810] { base with z := true } (fun t =>
    t.a == 0x8 && !t.c && !t.z && !t.g && t.peek 0x110 == 0x8 && t.pc == 0x0201) = true := by decide

/-- V95: BSET [XY+].0 -/
theorem test_v95_bset : gives [0x0371] { base with x := 0xF, y := 0xF, dm := [(0x1FF, 0x6)] } (fun t =>
    t.a == 0x7 && !t.c && !t.z && t.g && t.x == 0x0 && t.y == 0x0 && t.peek 0x1FF == 0x7
      && t.pc == 0x0201) = true := by decide

/-- V96: BNOT E:[HL].1 -/
theorem test_v96_bnot : gives [0x0042] { base with h := 0x1, l := 0x1, dm := [(0x211, 0x2)] } (fun t =>
    t.a == 0x0 && !t.c && t.z && !t.g && t.peek 0x211 == 0x0 && t.pc == 0x0201) = true := by decide

/-- V97: BTST ¥10H.3 -/
theorem test_v97_btst : gives [0xB810] { base with z := true, dm := [(0x110, 0x8)] } (fun t =>
    t.a == 0x0 && !t.c && !t.z && !t.g && t.pc == 0x0201) = true := by decide

/-- V98: BTST ¥10H.3 -/
theorem test_v98_btst : gives [0xB810] { base with dm := [(0x110, 0x7)] } (fun t =>
    t.a == 0x0 && !t.c && t.z && !t.g && t.pc == 0x0201) = true := by decide

/-- V99: MMOV [HL],#0CH,A.0 -/
theorem test_v99_mmov :
    gives [0x00EC] { base with a := 0x1, h := 0x1, l := 0x1, c := true, dm := [(0x111, 0x3)] } (fun t =>
    t.a == 0xF && t.c && !t.z && !t.g && t.peek 0x111 == 0xF && t.pc == 0x0201) = true := by decide

/-- V100: MMOV [HL],#0CH,A.3 -/
theorem test_v100_mmov : gives [0x06EC] { base with a := 0x7, h := 0x1, l := 0x1, dm := [(0x111, 0xC)] } (fun t =>
    t.a == 0x0 && !t.c && t.z && !t.g && t.peek 0x111 == 0x0 && t.pc == 0x0201) = true := by decide

/-- V102: BMOV [XY].2,A.1 -/
theorem test_v102_bmov : gives [0x02F4] { base with a := 0x2, x := 0x1, y := 0x1 } (fun t =>
    t.a == 0x4 && !t.c && !t.z && !t.g && t.peek 0x111 == 0x4 && t.pc == 0x0201) = true := by decide

/-- V103: BMOV [XY].2,A.1 -/
theorem test_v103_bmov :
    stops [0x02F4] { base with a := 0x2, x := 0x1, y := 0x1,
                               params := { base.params with core := .nX250 } } (.undefinedInstruction 0x2F4) = true := by decide

/-- V104: MOVHB [HL],[RA] -/
theorem test_v104_movhb : gives [0x0322] { base with ra2 := 0x1, h := 0x2, l := 0x0, pm := [(0x100,
                                                     0xA5C3)] } (fun t =>
    t.peek 0x120 == 0x5 && t.peek 0x121 == 0xA && t.pc == 0x0201) = true := by decide

/-- V107: MOVHB [XY+],1234H -/
theorem test_v107_movhb : gives [0x033C, 0x1234] { base with x := 0xF, y := 0xE, pm := [(0x1234, 0xBEEF)] } (fun t =>
    t.g && t.x == 0x0 && t.y == 0x0 && t.peek 0x1FE == 0xE && t.peek 0x1FF == 0xB
      && t.pc == 0x0202) = true := by decide

/-- V108: MOVLB E:[HL+],[RA] -/
theorem test_v108_movlb :
    gives [0x030B] { base with ra0 := 0xF, ra1 := 0xF, ra2 := 0xF, ra3 := 0xF, h := 0xF, l := 0xD, g := true,
                               pm := [(0xFFFF, 0xF0)] } (fun t =>
    !t.g && t.l == 0xF && t.peek 0x2FD == 0x0 && t.peek 0x2FE == 0xF && t.pc == 0x0201) = true := by decide

/-- V109: MOVLB [HL],0200H -/
theorem test_v109_movlb : gives [0x0325, 0x0200] { base with h := 0x0, l := 0x0 } (fun t =>
    t.peek 0x100 == 0x5 && t.peek 0x101 == 0x2 && t.pc == 0x0202) = true := by decide

/-- V110: MOVXB [HL],[RA] -/
theorem test_v110_movxb : gives [0x0326] { base with ra3 := 0x2, h := 0x0, l := 0x0, xm := [(0x2000,
                                                     0x7E)] } (fun t =>
    t.peek 0x100 == 0xE && t.peek 0x101 == 0x7 && t.pc == 0x0201) = true := by decide

/-- V115: MOVXB [HL+],[RA] -/
theorem test_v115_movxb :
    stops [0x032E] { base with h := 0xF, l := 0xF, xm := [(0x0,
                               0x12)] } (.byteTransferWrap 0x1FF) = true := by decide

/-- V111: MOVXB [HL],0FDCH -/
theorem test_v111_movxb : gives [0x03E0, 0x0FDC] { base with h := 0x3, l := 0x0, xm := [(0xFDC, 0xA1)] } (fun t =>
    t.peek 0x130 == 0x1 && t.peek 0x131 == 0xA && t.pc == 0x0202) = true := by decide

/-- V112: MOVXB [RA],[XY+] -/
theorem test_v112_movxb :
    gives [0x033F] { base with ra3 := 0x2, x := 0x1, y := 0x0, dm := [(0x110, 0xC), (0x111, 0x3)] } (fun t =>
    t.y == 0x2 && t.xmPeek 0x2000 == 0x3C && t.pc == 0x0201) = true := by decide

/-- V114: MOVXB [RA],[HL] -/
theorem test_v114_movxb :
    gives [0x0327] { base with cbr := 0x0, ra0 := 0x4, ra1 := 0x3, ra2 := 0x2, ra3 := 0x1, h := 0xF,
                               l := 0x2 } (fun t =>
    t.xmPeek 0x1234 == 0x34 && t.pc == 0x0201) = true := by decide

/-- V113: MOVXB 8000H,E:[HL] -/
theorem test_v113_movxb :
    gives [0x03C1, 0x8000] { base with ebr := 0x3, h := 0x0, l := 0x0, dm := [(0x300, 0x5), (0x301, 0xA)] } (fun t =>
    t.xmPeek 0x8000 == 0xA5 && t.pc == 0x0202) = true := by decide

/-- V118: PUSH HL -/
theorem test_v118_push :
    gives [0x0010] { base with a := 0x9, c := true, z := false, g := true, h := 0x5, l := 0xA } (fun t =>
    t.rsp == 1 && t.regStack[0] == (.hl true true false 0x9 0x5 0xA) && t.pc == 0x0201) = true := by decide

/-- V119: PUSH XY -/
theorem test_v119_push : gives [0x0011] { base with x := 0x3, y := 0x7, cbr := 0x4, ebr := 0xC, rsp := 14 } (fun t =>
    t.rsp == 15 && t.regStack[14] == (.xy 0xC 0x4 0x3 0x7) && t.pc == 0x0201) = true := by decide

/-- V120: PUSH XY -/
theorem test_v120_push : stops [0x0011] { base with rsp := 15 } .stackOverflowRegister = true := by decide

/-- V121: POP HL -/
theorem test_v121_pop :
    gives [0x0012] { base with rsp := 1, a := 0x0, z := true,
                               regStack := base.regStack.set 0 (.hl true true false 0x9 0x5 0xA) } (fun t =>
    t.a == 0x9 && t.c && !t.z && t.g && t.h == 0x5 && t.l == 0xA && t.rsp == 0
      && t.pc == 0x0201) = true := by decide

/-- V123: POP HL -/
theorem test_v123_pop : stops [0x0012] { base with rsp := 0 } .stackUnderflowRegister = true := by decide

/-- V122: POP XY -/
theorem test_v122_pop :
    gives [0x0013] { base with rsp := 3, regStack := base.regStack.set 2 (.xy 0xC 0x4 0x3 0x7) } (fun t =>
    t.x == 0x3 && t.y == 0x7 && t.cbr == 0x4 && t.ebr == 0xC && t.rsp == 2
      && t.pc == 0x0201) = true := by decide

/-- V124: FCLR C -/
theorem test_v124_fclr : gives [0x0003] { base with c := true, z := true, g := true } (fun t =>
    !t.c && t.pc == 0x0201) = true := by decide

/-- V125: FCLR Z -/
theorem test_v125_fclr : gives [0x0004] { base with c := true, z := true, g := true } (fun t =>
    !t.z && t.pc == 0x0201) = true := by decide

/-- V126: FCLR G -/
theorem test_v126_fclr : gives [0x0002] { base with c := true, z := true, g := true } (fun t =>
    !t.g && t.pc == 0x0201) = true := by decide

/-- V127: FCLR FLAG -/
theorem test_v127_fclr : gives [0x0005] { base with c := true, z := true, g := true } (fun t =>
    !t.c && !t.z && !t.g && t.pc == 0x0201) = true := by decide

/-- V128: FCLR FLAG -/
theorem test_v128_fclr :
    stops [0x0005] { base with c := true, z := true, g := true,
                               params := { base.params with core := .nX250 } } (.undefinedInstruction 0x5) = true := by decide

/-- V129: FSET C -/
theorem test_v129_fset : gives [0x0007] base (fun t =>
    t.c && t.pc == 0x0201) = true := by decide

/-- V130: FSET Z -/
theorem test_v130_fset : gives [0x0008] base (fun t =>
    t.z && t.pc == 0x0201) = true := by decide

/-- V131: FSET G -/
theorem test_v131_fset : gives [0x0006] base (fun t =>
    t.g && t.pc == 0x0201) = true := by decide

/-- V132: FSET FLAG -/
theorem test_v132_fset : gives [0x0009] base (fun t =>
    t.c && t.z && t.g && t.pc == 0x0201) = true := by decide

/-- V133: JMP 123H -/
theorem test_v133_jmp : gives [0xE123] { base with pc := 0x5678 } (fun t =>
    t.pc == 0x5123) = true := by decide

/-- V134: JMP 000H -/
theorem test_v134_jmp : stops [0xE000] { base with pc := 0x5FFF } (.pageEdgeJump 0x5FFF) = true := by decide

/-- V135: LJMP 0234H -/
theorem test_v135_ljmp : gives [0x0014, 0x0234] { base with pc := 0xF000 } (fun t =>
    t.pc == 0x0234) = true := by decide

/-- V138: SJMP -128 -/
theorem test_v138_sjmp : gives [0x0980] { base with pc := 0x10 } (fun t =>
    t.pc == 0xFF91) = true := by decide

/-- V139: SJMP +127 -/
theorem test_v139_sjmp : gives [0x08FF] { base with pc := 0xFFF0 } (fun t =>
    t.pc == 0x0070) = true := by decide

/-- V140: JMP PC+A -/
theorem test_v140_jmp : gives [0x0017] { base with a := 0xF, pc := 0x200 } (fun t =>
    t.pc == 0x0210) = true := by decide

/-- V144: BC +10H -/
theorem test_v144_bc : gives [0x0A10] { base with c := true } (fun t =>
    t.pc == 0x0211) = true := by decide

/-- V147: BNC +10H -/
theorem test_v147_bnc : gives [0x0A90] { base with c := true } (fun t =>
    t.pc == 0x0201) = true := by decide

/-- V148: BZ +10H -/
theorem test_v148_bz : gives [0x0C10] { base with z := true } (fun t =>
    t.pc == 0x0211) = true := by decide

/-- V151: BNZ +10H -/
theorem test_v151_bnz : gives [0x0C90] { base with z := true } (fun t =>
    t.pc == 0x0201) = true := by decide

/-- V153: BLE -4 -/
theorem test_v153_ble : gives [0x0F7C] { base with c := false, z := true } (fun t =>
    t.pc == 0x01FD) = true := by decide

/-- V152: BLE -4 -/
theorem test_v152_ble : gives [0x0F7C] { base with c := false, z := false } (fun t =>
    t.pc == 0x0201) = true := by decide

/-- V156: BGT -4 -/
theorem test_v156_bgt : gives [0x0FFC] { base with c := false, z := false } (fun t =>
    t.pc == 0x01FD) = true := by decide

/-- V158: BGT -4 -/
theorem test_v158_bgt : gives [0x0FFC] { base with c := true, z := false } (fun t =>
    t.pc == 0x0201) = true := by decide

/-- V142: BNG +10H -/
theorem test_v142_bng : gives [0x0810] { base with g := false } (fun t =>
    t.pc == 0x0211) = true := by decide

/-- V143: BNG +10H -/
theorem test_v143_bng : gives [0x0810] { base with g := true } (fun t =>
    t.pc == 0x0201) = true := by decide

/-- V161: CAL 456H -/
theorem test_v161_cal : gives [0xF456] { base with pc := 0x3210, sp := 30 } (fun t =>
    t.sp == 31 && t.callStack[30] == 0x3210 && t.pc == 0x3456) = true := by decide

/-- V162: CAL 456H -/
theorem test_v162_cal : stops [0xF456] { base with pc := 0x3210,
                                                   sp := 31 } .stackOverflowCall = true := by decide

/-- V163: LCAL 0ABCDH -/
theorem test_v163_lcal : gives [0x0015, 0xABCD] { base with pc := 0x3210, sp := 4 } (fun t =>
    t.sp == 5 && t.callStack[4] == 0x3211 && t.pc == 0xABCD) = true := by decide

/-- V165: RT -/
theorem test_v165_rt :
    gives [0x000B] { base with pc := 0xABCD, sp := 5, mie := true,
                               callStack := base.callStack.set 4 0x3211 } (fun t =>
    t.sp == 4 && t.pc == 0x3212) = true := by decide

/-- V167: RT -/
theorem test_v167_rt : gives [0x000B] { base with sp := 1, callStack := base.callStack.set 0 0xFFFF } (fun t =>
    t.sp == 0 && t.pc == 0x0000) = true := by decide

/-- V168: RTI -/
theorem test_v168_rti :
    gives [0x000C] { base with pc := 0x20, sp := 1, mie := false, callStack := base.callStack.set 0 0x2FF } (fun t =>
    t.mie && t.sp == 0 && t.pc == 0x0300) = true := by decide

/-- V169: RTNMI -/
theorem test_v169_rtnmi :
    gives [0x000D] { base with pc := 0x30, sp := 1, mie := false, mieSaved := true,
                               callStack := base.callStack.set 0 0x2FF } (fun t =>
    t.mie && t.sp == 0 && t.pc == 0x0300) = true := by decide

/-- V170: RTNMI -/
theorem test_v170_rtnmi :
    gives [0x000D] { base with pc := 0x30, sp := 1, mie := false, mieSaved := false,
                               callStack := base.callStack.set 0 0x2FF } (fun t =>
    t.sp == 0 && t.pc == 0x0300) = true := by decide

/-- V172: MOV EBR,#0FH -/
theorem test_v172_mov : gives [0x002F] { base with z := true, a := 0x3 } (fun t =>
    t.ebr == 0xF && t.pc == 0x0201) = true := by decide

/-- V180: MOV RA3,#0FH -/
theorem test_v180_mov : gives [0x023F] base (fun t =>
    t.ra3 ++ t.ra2 ++ t.ra1 ++ t.ra0 == (0xF000 : Word) && t.pc == 0x0201) = true := by decide

/-- V181: INCB HL -/
theorem test_v181_incb : gives [0x0018] { base with h := 0x0, l := 0xF, g := true } (fun t =>
    !t.g && t.h == 0x1 && t.l == 0x0 && t.pc == 0x0201) = true := by decide

/-- V182: INCB HL -/
theorem test_v182_incb : gives [0x0018] { base with h := 0xF, l := 0xF } (fun t =>
    t.g && t.h == 0x0 && t.l == 0x0 && t.pc == 0x0201) = true := by decide

/-- V183: INCB XY -/
theorem test_v183_incb : gives [0x0019] { base with x := 0xF, y := 0xE, c := true, z := true } (fun t =>
    t.y == 0xF && t.pc == 0x0201) = true := by decide

/-- V184: INCW RA -/
theorem test_v184_incw : gives [0x001A] { base with ra0 := 0xF, ra1 := 0xF, ra2 := 0xF } (fun t =>
    t.ra3 ++ t.ra2 ++ t.ra1 ++ t.ra0 == (0x1000 : Word) && t.pc == 0x0201) = true := by decide

/-- V185: INCW RA -/
theorem test_v185_incw : gives [0x001A] { base with ra0 := 0xF, ra1 := 0xF, ra2 := 0xF, ra3 := 0xF } (fun t =>
    t.g && t.ra3 ++ t.ra2 ++ t.ra1 ++ t.ra0 == (0x0000 : Word) && t.pc == 0x0201) = true := by decide

/-- V186: MSA 1000H -/
theorem test_v186_msa : stops [0x0016, 0x1000] base (.melodyAbsent 0x200) = true := by decide

/-- V187: MSA 1000H -/
theorem test_v187_msa :
    gives [0x0016, 0x1000] { base with params := { base.params with hasMelody := true } } (fun t =>
      t.pc == 0x0202 && t.melodyStart == some 0x1000) = true := by decide

/-- V189: HALT / NOP -/
theorem test_v189_halt : gives [0x0001, 0x0000] base (fun t =>
    t.halted && t.pc == 0x0201) = true := by decide

/-- V190: HALT / EI -/
theorem test_v190_halt : stops [0x0001, 0x000E] base (.haltWithoutNop 0x200) = true := by decide

/-- V191: EI -/
theorem test_v191_ei : gives [0x000E] base (fun t =>
    t.mie && t.pc == 0x0201) = true := by decide

/-- V192: DI -/
theorem test_v192_di : gives [0x000F] { base with mie := true } (fun t =>
    !t.mie && t.pc == 0x0201) = true := by decide

/-- V188: NOP -/
theorem test_v188_nop : gives [0x0000] { base with a := 0x5, c := true, z := true, g := true } (fun t =>
    t.pc == 0x0201) = true := by decide

/-- V193: (word 000AH) -/
theorem test_v193_unassigned : stops [0x000A] base (.undefinedInstruction 0xA) = true := by decide

/-- V196: (word 03E2H) -/
theorem test_v196_unassigned : stops [0x03E2] base (.undefinedInstruction 0x3E2) = true := by decide

/-- V200: INC 00H -/
theorem test_v200_inc : stops [0x2000] base (.unimplementedSFR 0x0) = true := by decide

/-- V203: MOV A,[HL] -/
theorem test_v203_mov :
    stops [0x0320] { base with cbr := 0x2, h := 0x0, l := 0x0, params := { base.params with ramImpl := [⟨0x100,
                               0x1FF⟩] } } (.unimplementedDM 0x200) = true := by decide

/-- V204: (fetch at 1000H) -/
theorem test_v204_fetch :
    stops [] { base with pc := 0x1000,
                         params := { base.params with pmWords := 4096 } } (.unimplementedPM 0x1000) = true := by decide

/-! ### Decoding, from words written out by the tables of 30_encoding.md -/

/-- The word decodes to this instruction (a second spelling to its primary one), and the encoder gives the word back. -/
def coded (w : Word) (i : Instr) : Bool :=
  (match decode .nX300 w 0x1234 with
    | .ok j => decide (j = i.primary)
    | .error _ => false) && decide ((encode i).head? = some w)

/-- `[HL]`, `[HL+]`, `[XY]`, `[XY+]`, `E:[HL]`, `E:[HL+]`, `E:[XY]`, `E:[XY+]`. -/
def hl : Ind := ⟨⟨.cbr, .hl⟩, false⟩
def hlP : Ind := ⟨⟨.cbr, .hl⟩, true⟩
def xy : Ind := ⟨⟨.cbr, .xy⟩, false⟩
def xyP : Ind := ⟨⟨.cbr, .xy⟩, true⟩
def ehl : Ind := ⟨⟨.ebr, .hl⟩, false⟩
def ehlP : Ind := ⟨⟨.ebr, .hl⟩, true⟩
def exy : Ind := ⟨⟨.ebr, .xy⟩, false⟩
def exyP : Ind := ⟨⟨.ebr, .xy⟩, true⟩

/-- R128, R131, R132, R127, R136, R126 -/
theorem test_decode_transfer :
    coded 0b1100_001100100110 (.movObjA (.direct 0x326)) && coded 0b0000_0100_0010_0000 (.movObjA (.ind hl))
      && coded 0b1101_000011111000 (.movAObj (.direct 0x0F8)) && coded 0b0000_0011_0001_1000 (.movAObj (.ind exyP))
      && coded 0b0000_0001_1100_1010 (.movAImm 0xA) && coded 0b0100_0101_00110010 (.movObjImm (.cur 0x32) 5)
      && coded 0b0000_0111_0111_0110 (.movObjImm (.ind xyP) 6) && coded 0b0010_1110_11111011 (.xch (.sfr 0xFB))
      && coded 0b0011_1110_00010000 (.xch (.cur 0x10)) && coded 0b0000_0011_0010_1001 (.xch (.ind hlP)) = true := by
  decide

/-- R126, R131 -/
theorem test_decode_rotate_incdec :
    coded 0b0010_0010_11110010 (.rol (.sfr 0xF2)) && coded 0b0000_0100_0000_1110 (.rol (.ind ehlP))
      && coded 0b0011_0011_00000101 (.ror (.cur 0x05)) && coded 0b0000_0100_0011_0111 (.ror (.ind xy))
      && coded 0b0011_0000_00110010 (.inc (.cur 0x32)) && coded 0b0000_0101_0001_0000 (.inc (.ind exy))
      && coded 0b0010_0001_11110110 (.dec (.sfr 0xF6)) && coded 0b0000_0101_0010_1001 (.dec (.ind hlP)) = true := by
  decide

/-- R126, R127, R130, R131, R132, R133, R139 -/
theorem test_decode_arithmetic :
    coded 0b0011_0100_00010000 (.addA (.cur 0x10)) && coded 0b0000_0101_0001_1010 (.addA (.ind exyP))
      && coded 0b1000_0011_00010000 (.addImm (.cur 0x10) 3) && coded 0b0000_0001_1000_0001 (.addImm (.ind ehlP) 1)
      && coded 0b0010_0101_11111001 (.adc (.sfr 0xF9)) && coded 0b0000_0101_0011_0011 (.adc (.ind xy))
      && coded 0b0011_0110_00010000 (.adcd (.cur 0x10)) && coded 0b0000_0101_0001_0100 (.adcd (.ind exy))
      && coded 0b0001_0101_00010000 (.adcj (.cur 0x10) .b10) && coded 0b0000_0111_0011_0000 (.adcj (.ind xyP) .b16)
      && coded 0b0011_0111_00010000 (.subA (.cur 0x10)) && coded 0b0000_0101_0010_0101 (.subA (.ind hl))
      && coded 0b1001_1001_00010000 (.subImm (.cur 0x10) 9) && coded 0b0000_0010_1010_0001 (.subImm (.ind hl) 1)
      && coded 0b0010_1000_11111111 (.sbc (.sfr 0xFF)) && coded 0b0000_0101_0011_1110 (.sbc (.ind xyP))
      && coded 0b0011_1001_00010000 (.sbcd (.cur 0x10)) && coded 0b0000_0101_0000_0111 (.sbcd (.ind ehl))
      && coded 0b0001_1010_00010000 (.sbcj (.cur 0x10) .b4)
      && coded 0b0000_0110_0010_1011 (.sbcj (.ind hl) .b6) = true := by
  decide

/-- R126, R127, R131, R132 -/
theorem test_decode_compare_logical :
    coded 0b0010_1010_11110110 (.cmpA (.sfr 0xF6)) && coded 0b0000_0100_0010_0100 (.cmpA (.ind hl))
      && coded 0b1010_0111_00010000 (.cmpImm (.cur 0x10) 7) && coded 0b0000_0110_1001_1111 (.cmpImm (.ind exy) 15)
      && coded 0b0011_1011_00010000 (.andA (.cur 0x10)) && coded 0b0000_0100_0001_0001 (.andA (.ind exy))
      && coded 0b0101_0011_00010000 (.andImm (.cur 0x10) 3) && coded 0b0000_0101_0110_1110 (.andImm (.ind hlP) 14)
      && coded 0b0010_1100_11111101 (.orA (.sfr 0xFD)) && coded 0b0000_0100_0010_0010 (.orA (.ind hl))
      && coded 0b0110_0000_00010000 (.orImm (.cur 0x10) 0) && coded 0b0000_0011_0111_0001 (.orImm (.ind xyP) 1)
      && coded 0b0011_1101_00010000 (.xorA (.cur 0x10)) && coded 0b0000_0100_0011_1011 (.xorA (.ind xyP))
      && coded 0b0111_1111_00010000 (.xorImm (.cur 0x10) 15)
      && coded 0b0000_0000_0100_0101 (.xorImm (.ind ehl) 5) = true := by
  decide

/-- R126, R127, R131, R132, R134, R140, R143 -/
theorem test_decode_mask_bit :
    coded 0b0101_1001_00010000 (.mclr (.cur 0x10) 9) && coded 0b0000_0010_0110_1100 (.mset (.ind hl) 12)
      && coded 0b0000_0001_0101_1111 (.mnot (.ind exyP) 15) && coded 0b0010_1111_11110101 (.mtstA (.sfr 0xF5))
      && coded 0b0000_0100_0000_0101 (.mtstA (.ind ehl)) && coded 0b1011_1000_00010000 (.mtstImm (.cur 0x10) 8)
      && coded 0b0000_0100_1010_1010 (.mtstImm (.ind hl) 10) && coded 0b0000_0110_1110_1100 (.mmov ⟨.cbr, .hl⟩ 12 3)
      && coded 0b0000_0010_1101_0000 (.mmov ⟨.ebr, .xy⟩ 0 1) && coded 0b0101_1011_00010000 (.bclr (.cur 0x10) 2)
      && coded 0b0000_0100_0110_1110 (.bclr (.ind hl) 0) && coded 0b0110_1000_00010000 (.bset (.cur 0x10) 3)
      && coded 0b0000_0000_0100_0010 (.bnot (.ind ehl) 1) && coded 0b1011_1000_00010000 (.btst (.cur 0x10) 3)
      && coded 0b0000_0010_1111_0100 (.bmov ⟨.cbr, .xy⟩ 2 1) = true := by
  decide

/-- R131, R135 -/
theorem test_decode_rom_external :
    coded 0b0000_0011_0010_0010 (.movhbRA hl) && coded 0b0000_0011_0011_1100 (.movhbAbs xyP 0x1234)
      && coded 0b0000_0011_0000_1011 (.movlbRA ehlP) && coded 0b0000_0011_0010_0101 (.movlbAbs hl 0x1234)
      && coded 0b0000_0011_0010_0110 (.movxbLoadRA hl) && coded 0b0000_0011_1110_1000 (.movxbLoadAbs hlP 0x1234)
      && coded 0b0000_0011_0011_1111 (.movxbStoreRA xyP) && coded 0b0000_0011_1100_0001 (.movxbStoreAbs 0x1234 ehl)
      && coded 0b0000_0011_1111_0000 (.movxbLoadAbs xy 0x1234) = true := by
  decide

/-- R138 -/
theorem test_decode_stack_flag :
    coded 0x0010 .pushHL && coded 0x0011 .pushXY && coded 0x0012 .popHL && coded 0x0013 .popXY && coded 0x0003 .fclrC
      && coded 0x0004 .fclrZ && coded 0x0002 .fclrG && coded 0x0005 .fclrFlag && coded 0x0007 .fsetC
      && coded 0x0008 .fsetZ && coded 0x0006 .fsetG && coded 0x0009 .fsetFlag = true := by
  decide

/-- R128, R129, R138; the sign bit of a displacement is bit 8 of the word, s its bit 7 -/
theorem test_decode_branch_call :
    coded 0b1110_000100100011 (.jmp 0x123) && coded 0x0014 (.ljmp 0x1234) && coded 0b00001_00_1_1_1111111 (.sjmp 0xFF)
      && coded 0x0017 .jmpPcA && coded 0b00001_01_0_0_0010000 (.bc 0x10) && coded 0b00001_01_0_0_0010000 (.blt 0x10)
      && coded 0b00001_01_1_1_1111101 (.bnc 0xFD) && coded 0b00001_01_1_1_1111101 (.bge 0xFD)
      && coded 0b00001_10_0_0_0010000 (.bz 0x10) && coded 0b00001_10_0_0_0010000 (.beq 0x10)
      && coded 0b00001_10_0_1_0010000 (.bnz 0x10) && coded 0b00001_10_0_1_0010000 (.bne 0x10)
      && coded 0b00001_11_1_0_1111100 (.ble 0xFC) && coded 0b00001_11_1_1_1111100 (.bgt 0xFC)
      && coded 0b00001_00_1_0_1111101 (.bng 0xFD) && coded 0b1111_010001010110 (.cal 0x456)
      && coded 0x0015 (.lcal 0x1234) && coded 0x000B .rt && coded 0x000C .rti && coded 0x000D .rtnmi = true := by
  decide

/-- R137, R138 -/
theorem test_decode_control :
    coded 0b0000_0000_0010_1111 (.movReg .ebr 15) && coded 0b0000_0000_0011_0100 (.movReg .cbr 4)
      && coded 0b0000_0001_0000_0001 (.movReg .y 1) && coded 0b0000_0001_0001_1100 (.movReg .x 12)
      && coded 0b0000_0001_0010_0101 (.movReg .l 5) && coded 0b0000_0001_0011_1010 (.movReg .h 10)
      && coded 0b0000_0010_0000_0001 (.movReg .ra0 1) && coded 0b0000_0010_0001_0010 (.movReg .ra1 2)
      && coded 0b0000_0010_0010_0011 (.movReg .ra2 3) && coded 0b0000_0010_0011_1111 (.movReg .ra3 15)
      && coded 0x0018 .incbHL && coded 0x0019 .incbXY && coded 0x001A .incwRA && coded 0x0016 (.msa 0x1234)
      && coded 0x0001 .halt && coded 0x0000 .nop && coded 0x000E .ei && coded 0x000F .di = true := by
  decide

/-! ### Well-formedness: an ill-formed term for each check -/

/-- R2: "Not provided" on the nX-4/250 -/
theorem test_wf_core_has_it :
    WellFormed .nX250 (.mmov ⟨.cbr, .hl⟩ 12 0) = false ∧ WellFormed .nX250 (.bmov ⟨.cbr, .xy⟩ 2 1) = false
      ∧ WellFormed .nX250 .fclrFlag = false ∧ WellFormed .nX250 .fsetFlag = false
      ∧ WellFormed .nX300 .fsetFlag = true ∧ WellFormed .nX250 .fsetC = true := by
  decide

/-- A maskable and a non-maskable source, as in I1 and I3. -/
def maskable : IrqSource := ⟨1, 0x0010, .maskable, 1, true⟩
def nonMaskable : IrqSource := ⟨2, 0x0004, .nonMaskable, 2, true⟩

/-- R503: a vector lies in 0001H..00FFH -/
theorem test_wf_vector :
    ({ maskable with vector := 0x0000 } : IrqSource).wf = false ∧ ({ maskable with vector := 0x0100 } : IrqSource).wf = false
      ∧ maskable.wf = true := by
  decide

/-- R6, R503: PM_WORDS in 1..65536, names and priorities distinct -/
theorem test_wf_params :
    ({ Params.defaults with pmWords := 0 } : Params).wf = false
      ∧ ({ Params.defaults with pmWords := 65537 } : Params).wf = false
      ∧ ({ Params.defaults with irq := [{ maskable with vector := 0x0200 }] } : Params).wf = false
      ∧ ({ Params.defaults with irq := [maskable, { nonMaskable with name := 1 }] } : Params).wf = false
      ∧ ({ Params.defaults with irq := [maskable, { nonMaskable with priority := 1 }] } : Params).wf = false
      ∧ ({ Params.defaults with irq := [maskable, nonMaskable] } : Params).wf = true := by
  decide

/-! ### Interrupts (95_test_vectors.md section 4) -/

/-- A boundary with a request waiting. -/
def asking (src : IrqSource) (s : State) : State :=
  { s with params := { s.params with irq := [src] }, requests := [src.name] }

/-- I1 -/
theorem test_i1_maskable_entry :
    gives [] (asking maskable { base with pc := 0x0345, mie := true, sp := 2 }) (fun t =>
      !t.mie && t.sp == 3 && t.callStack[2] == 0x0344 && t.pc == 0x0010) = true := by decide

/-- I2: the instruction (here NOP) runs and the request stays -/
theorem test_i2_masked :
    gives [0x0000] (asking maskable { base with pc := 0x0345, sp := 2 }) (fun t =>
      t.sp == 2 && t.pc == 0x0346 && t.requests == [1]) = true := by decide

/-- I3 -/
theorem test_i3_nmi_entry :
    gives [] (asking nonMaskable { base with pc := 0x0345, mie := true, sp := 2 }) (fun t =>
      !t.mie && t.mieSaved && t.sp == 3 && t.callStack[2] == 0x0344 && t.pc == 0x0004) = true := by decide

/-- I4 -/
theorem test_i4_nmi_entry_masked :
    gives [] (asking nonMaskable { base with pc := 0x0345, mieSaved := true, sp := 2 }) (fun t =>
      !t.mieSaved && t.sp == 3 && t.callStack[2] == 0x0344 && t.pc == 0x0004) = true := by decide

/-- I5 -/
theorem test_i5_entry_from_halt :
    gives [] (asking maskable { base with pc := 0x0004, mie := true, halted := true }) (fun t =>
      !t.mie && t.sp == 1 && !t.halted && t.callStack[0] == 0x0003 && t.pc == 0x0010) = true := by decide

/-- I6: a halted core with a masked request stays, or wakes without an entry under HALT_WAKE_IGNORES_MIE -/
theorem test_i6_masked_in_halt :
    gives [] (asking maskable { base with pc := 0x0004, halted := true }) (fun t =>
      t.halted && t.pc == 0x0004 && t.requests == [1]) = true
    ∧ gives [] (asking maskable { base with
        pc := 0x0004, halted := true, params := { base.params with haltWakeIgnoresMie := true } }) (fun t =>
      !t.halted && t.pc == 0x0004 && t.sp == 0 && t.requests == [1]) = true := by decide

/-- I7 -/
theorem test_i7_no_level : stops [] (asking maskable { base with mie := true, sp := 31 }) .stackOverflowCall = true := by
  decide

/-- I8 -/
theorem test_i8_entry_at_zero :
    gives [] (asking maskable { base with pc := 0x0000, mie := true }) (fun t =>
      t.sp == 1 && t.callStack[0] == 0xFFFF && t.pc == 0x0010) = true := by decide

/-! ### The interface -/

/-- The words of a two-word instruction stored by withFetchWord are the next the step runs; LJMP 1234H. -/
theorem test_withFetchWord :
    (match step (State.reset.withFetchWord 32 0x12340014) with
      | .next t => t.pc == 0x1234
      | _ => false) = true := by decide

/-! ### Witnesses: a state and operands that meet every hypothesis of each statement that has any, each clause of it at
boundary values -/

/-- The next state, where there is one. -/
def nextOf (r : Host.Outcome State Fault Refusal) : State :=
  match r with
  | .next t => t
  | _ => base

theorem base_invariant : Invariant base := ⟨by decide, by decide, by decide, by decide, by decide⟩

/-- DecodeOfEncode: one word, two words, and a second spelling -/
theorem witness_DecodeOfEncode :
    WellFormed .nX250 (.ljmp 0xFFFF) = true ∧ encode (.ljmp 0xFFFF) = 0x0014 :: [0xFFFF]
      ∧ WellFormed .nX300 (.bmov ⟨.ebr, .xy⟩ 3 3) = true ∧ encode (.bmov ⟨.ebr, .xy⟩ 3 3) = 0x06D8 :: []
      ∧ WellFormed .nX250 (.movObjA (.direct 0xFFF)) = true
      ∧ encode (.movObjA (.direct 0xFFF)) = 0xCFFF :: [] := by decide

/-- EncodeOfDecode and LengthByFirstWord: the first and the last of each kind -/
theorem witness_decodes :
    decode .nX250 0x0000 0 = .ok .nop ∧ decode .nX250 0xFFFF 0 = .ok (.cal 0xFFF)
      ∧ decode .nX300 0x0014 0xFFFF = .ok (.ljmp 0xFFFF)
      ∧ decode .nX300 0x03F9 0 = .ok (.movxbStoreAbs 0 ⟨⟨.cbr, .xy⟩, true⟩) :=
  ⟨rfl, rfl, rfl, rfl⟩

/-- UnassignedWords, the fetch: on either core -/
theorem witness_UnassignedWords :
    ∃ s : State, CoreActs s s ∧ acceptedSource s = none ∧ s.halted = false ∧ s.pc.toNat < s.params.pmWords
      ∧ ∀ x i, decode s.params.core (s.pmPeek s.pc) x ≠ .ok i :=
  ⟨atPc [0x000A] base, .inl ⟨rfl, rfl⟩, by decide, rfl, by decide, by
    have h : (atPc [0x000A] base).pmPeek (atPc [0x000A] base).pc = 0x000A := by decide
    rw [h]
    exact fun x i => nofun⟩

/-- StepRunsDecoded: a one-word instruction at the last program word, a two-word one whose second word is the last, with no
input and with a quiet one -/
theorem witness_StepRunsDecoded :
    ∃ s u : State, CoreActs s u ∧ acceptedSource u = none ∧ u.halted = false ∧ u.pc.toNat < u.params.pmWords
      ∧ (u.pc + 1).toNat < u.params.pmWords
      ∧ decode u.params.core (u.pmPeek u.pc) (u.pmPeek (u.pc + 1)) = .ok (.lcal 0x1234)
      ∧ (Instr.lcal 0x1234).words = 2 :=
  ⟨{ atPc [0x0015, 0x1234] { base with pc := 0xFFFE } with inputs := [.quiet] }, _, .inr ⟨[], rfl, rfl⟩,
    by decide, rfl, by decide, by decide, rfl, rfl⟩

/-- FetchStops, first clause: the first word past the end -/
theorem witness_FetchStops_first :
    let s := { base with pc := 0x1000, params := { base.params with pmWords := 4096 } }
    CoreActs s s ∧ acceptedSource s = none ∧ s.halted = false ∧ s.params.pmWords ≤ s.pc.toNat :=
  ⟨.inl ⟨rfl, rfl⟩, by decide, rfl, by decide⟩

/-- FetchStops, second clause: the second word past the end -/
theorem witness_FetchStops_second :
    let s := { atPc [0x0014] { base with pc := 0x0FFF } with params := { base.params with pmWords := 4096 } }
    CoreActs s s ∧ acceptedSource s = none ∧ s.halted = false ∧ s.pc.toNat < s.params.pmWords
      ∧ decode s.params.core (s.pmPeek s.pc) (s.pmPeek (s.pc + 1)) = .ok (.ljmp 0x0000)
      ∧ (Instr.ljmp 0x0000).words = 2 ∧ s.params.pmWords ≤ (s.pc + 1).toNat :=
  ⟨.inl ⟨rfl, rfl⟩, by decide, rfl, by decide, rfl, rfl, by decide⟩

/-- A device with a narrow RAM and a peripheral model for half of its addresses. -/
def narrow : State := { base with params := { base.params with ramImpl := [⟨0x100, 0x1FF⟩], periph := [⟨0x00, 0x7F⟩] } }

/-- DataMemoryMap: the four clauses about an address, at the ends of their ranges -/
theorem witness_DataMemoryMap :
    inRanges narrow.params.ramImpl 0x100 = true ∧ inRanges narrow.params.ramImpl 0x1FF = true
      ∧ inRanges base.params.ramImpl 0xFFF = true ∧ inRanges narrow.params.ramImpl 0x200 = false
      ∧ inRanges narrow.params.ramImpl 0xFFF = false ∧ inRanges narrow.params.periph 0x000 = true
      ∧ inRanges narrow.params.periph 0x080 = false ∧ inRanges narrow.params.periph 0x0F1 = false := by decide

theorem narrow_invariant : Invariant narrow := ⟨by decide, by decide, by decide, by decide, by decide⟩

/-- The hypothesis of TransferResult to BitResult and of CompareThenBranch, for an sfr operand: a device address, RA0, MIEF -/
theorem witness_NibbleReady_sfr :
    NibbleReady (sfrObj (.sfr 0x00)) narrow ∧ NibbleReady (sfrObj (.sfr 0xF2)) base
      ∧ NibbleReady (sfrObj (.sfr 0xFF)) base :=
  ⟨⟨narrow_invariant, by decide, by decide⟩, ⟨base_invariant, by decide, by decide⟩,
    ⟨base_invariant, by decide, by decide⟩⟩

/-- The same for a `¥cur` and a direct operand: the ends of the bank, the last RAM nibble -/
theorem witness_NibbleReady_cur :
    NibbleReady (sfrObj (.cur 0x00)) base ∧ NibbleReady (curObj (.cur 0xFF)) base
      ∧ NibbleReady (dirObj (.direct 0x100)) base ∧ NibbleReady (dirObj (.direct 0xFFF)) base :=
  ⟨⟨base_invariant, by decide, by decide⟩, ⟨base_invariant, by decide, by decide⟩,
    ⟨base_invariant, by decide, by decide⟩, ⟨base_invariant, by decide, by decide⟩⟩

/-- Pairs at 0FFH, so that a post-increment wraps; bank EBR = 0FH. -/
def edge : State := { base with h := 0xF, l := 0xF, x := 0xF, y := 0xF, ebr := 0xF }

theorem edge_invariant : Invariant edge := ⟨by decide, by decide, by decide, by decide, by decide⟩

/-- The same for the indirect operands: offset 0FFH, with and without `+`, and the SFR bank at 0F8H and 0FFH beside the
prohibited range -/
theorem witness_NibbleReady_ind :
    NibbleReady (sfrObj (.ind hlP)) edge ∧ NibbleReady (curObj (.ind exyP)) edge ∧ NibbleReady (dirObj (.ind xy)) edge
      ∧ NibbleReady (ptrObj ⟨.ebr, .hl⟩) edge ∧ NibbleReady (sfrObj (.ind hlP)) { edge with cbr := 0 }
      ∧ NibbleReady (curObj (.ind hlP)) { edge with cbr := 0, l := 8 } :=
  ⟨⟨edge_invariant, by decide, by decide⟩, ⟨edge_invariant, by decide, by decide⟩,
    ⟨edge_invariant, by decide, by decide⟩, ⟨edge_invariant, by decide, by decide⟩,
    ⟨⟨by decide, by decide, by decide, by decide, by decide⟩, by decide, by decide⟩,
    ⟨⟨by decide, by decide, by decide, by decide, by decide⟩, by decide, by decide⟩⟩

/-- DecimalDigits: the largest digits -/
theorem witness_DecimalDigits :
    let s := { base with a := 9, dm := [(0x110, 9)] }
    NibbleReady (sfrObj (.cur 0x10)) s ∧ (s.peek (effAddr s (sfrObj (.cur 0x10)))).toNat ≤ 9 ∧ s.a.toNat ≤ 9 :=
  ⟨⟨⟨by decide, by decide, by decide, by decide, by decide⟩, by decide, by decide⟩, by decide, by decide⟩

/-- DataAccessStops: both outcomes, at the ends of the addresses that do not answer -/
theorem witness_DataAccessStops :
    base.accessible (effAddr base (sfrObj (.sfr 0x00))) = false
      ∧ narrow.accessible (effAddr narrow (sfrObj (.sfr 0x80))) = false
      ∧ ({ base with cbr := 0 } : State).accessible (effAddr { base with cbr := 0 } (curObj (.cur 0xF1))) = false
      ∧ narrow.accessible (effAddr narrow (dirObj (.direct 0x200))) = false
      ∧ narrow.accessible (effAddr narrow (dirObj (.direct 0xFFF))) = false
      ∧ narrow.accessible (effAddr narrow (ptrObj ⟨.ebr, .xy⟩)) = false := by decide

/-- The pair HL at an address of the SFR bank. -/
def sfrBank (h l : Nibble) : State := { base with cbr := 0, h := h, l := l, x := h, y := l }

theorem sfrBank_invariant (h l : Nibble) : Invariant (sfrBank h l) :=
  ⟨rfl, rfl, rfl, base_invariant.params, base_invariant.requests⟩

/-- ProhibitedPostIncrement: the first and the last pointer register, in each operand class -/
theorem witness_ProhibitedPostIncrement :
    prohibitedPost (sfrObj (.ind hlP)) (effAddr (sfrBank 0xF 0x9) (sfrObj (.ind hlP))) = true
      ∧ prohibitedPost (curObj (.ind xyP)) (effAddr (sfrBank 0xF 0xE) (curObj (.ind xyP))) = true
      ∧ prohibitedPost (dirObj (.ind hlP)) (effAddr (sfrBank 0xF 0xB) (dirObj (.ind hlP))) = true := by decide

/-- A state for the byte transfers: RA at the last address. -/
def bytes (w : ByteXferWrap) (h l : Nibble) : State :=
  { base with h := h, l := l, ra3 := 0xF, ra2 := 0xF, ra1 := 0xF, ra0 := 0xF,
              params := { base.params with byteXferWrap := w } }

theorem bytes_invariant (w : ByteXferWrap) (h l : Nibble) : Invariant (bytes w h l) :=
  ⟨rfl, rfl, rfl, (by cases w <;> decide : (bytes w 0 0).params.wf = true), base_invariant.requests⟩

/-- ByteLoadsResult and ExternalStoreResult: the last pair of the bank, with RA at its last value -/
theorem witness_ByteReady :
    let s := bytes .fault 0xF 0xE
    ByteReady hlP 0x1FF s ∧ pairSafe hlP 0x1FF = true ∧ s.ra.toNat < s.params.pmWords ∧ xmHas s s.ra = true
      ∧ xmHas s 0x0000 = true :=
  ⟨⟨bytes_invariant _ _ _, .inl ⟨by decide, by decide⟩, by decide, by decide, by decide⟩, by decide, by decide,
    by decide, by decide⟩

/-- The same past offset 0FFH, under wrap8 and under carry12 -/
theorem witness_ByteReady_wrap :
    ByteReady hlP 0x100 (bytes .wrap8 0xF 0xF) ∧ ByteReady hl 0x200 (bytes .carry12 0xF 0xF)
      ∧ pairSafe hlP 0x100 = true ∧ pairSafe hl 0x200 = true :=
  ⟨⟨bytes_invariant _ _ _, .inr (.inl ⟨by decide, by decide, by decide⟩), by decide, by decide, by decide⟩,
    ⟨bytes_invariant _ _ _, .inr (.inr ⟨by decide, by decide, by decide⟩), by decide, by decide, by decide⟩,
    by decide, by decide⟩

/-- ExternalRoundTrip: a byte of RAM stored and loaded back elsewhere -/
theorem witness_ExternalRoundTrip :
    let s := { base with h := 4, dm := [(0x140, 0x3), (0x141, 0xC)] }
    ∃ t, ByteReady hlP 0x141 s ∧ xmHas s 0x1000 = true ∧ exec (.movxbStoreAbs 0x1000 hlP) s = .next t
      ∧ ByteReady xy 0x101 t ∧ 0x100 ≤ (ptrAddr s hlP.ptr).toNat ∧ 0x100 ≤ (ptrAddr t xy.ptr).toNat := by
  refine ⟨nextOf (exec (.movxbStoreAbs 0x1000 hlP) { base with h := 4, dm := [(0x140, 0x3), (0x141, 0xC)] }),
    ⟨⟨by decide, by decide, by decide, by decide, by decide⟩, .inl ⟨by decide, by decide⟩, by decide, by decide,
      by decide⟩, by decide, rfl,
    ⟨⟨by decide, by decide, by decide, by decide, by decide⟩, .inl ⟨by decide, by decide⟩, by decide, by decide,
      by decide⟩, by decide, by decide⟩

/-- ByteTransferStops, first clause -/
theorem witness_ByteTransferStops_wrap :
    (bytes .fault 0xF 0xF).pairValue hl.ptr.pair = 0xFF#8 ∧ (bytes .fault 0xF 0xF).params.byteXferWrap = .fault := by
  decide

/-- A device of 4096 program words without external memory, RA past the end. -/
def small : State :=
  { base with ra3 := 0x1, params := { base.params with pmWords := 4096, xmPresent := false, ramImpl := [⟨0x100, 0x1FF⟩] } }

/-- ByteTransferStops, second clause: the first program word past the end, and no external memory -/
theorem witness_ByteTransferStops_source :
    SecondNibble small (ptrAddr small hl.ptr) 0x101 ∧ small.params.pmWords ≤ small.ra.toNat
      ∧ small.params.pmWords ≤ (0x1000 : Word).toNat ∧ xmHas small small.ra = false ∧ xmHas small 0x0000 = false
      ∧ small.accessible (ptrAddr small hl.ptr) = true ∧ small.accessible 0x101 = true :=
  ⟨.inl ⟨by decide, by decide⟩, by decide, by decide, by decide, by decide, by decide, by decide⟩

/-- ByteTransferStops, third clause: obj does not answer, with every source there -/
theorem witness_ByteTransferStops_data :
    SecondNibble narrow (ptrAddr narrow ehl.ptr) 0x201 ∧ FirstSilent narrow (ptrAddr narrow ehl.ptr) 0x201 0x200
      ∧ xmHas narrow narrow.ra = true ∧ xmHas narrow 0xFFFF = true ∧ narrow.ra.toNat < narrow.params.pmWords
      ∧ (0xFFFF : Word).toNat < narrow.params.pmWords :=
  ⟨.inl ⟨by decide, by decide⟩, .inl ⟨by decide, by decide⟩, by decide, by decide, by decide, by decide⟩

/-- The narrow device with HL at the last nibble of its RAM, and carry12. -/
def narrowEdge : State :=
  { narrow with h := 0xF, l := 0xF, params := { narrow.params with byteXferWrap := .carry12 } }

/-- ByteTransferStops, third clause: obj answers and obj+1 does not -/
theorem witness_ByteTransferStops_second :
    SecondNibble narrowEdge (ptrAddr narrowEdge hl.ptr) 0x200
      ∧ FirstSilent narrowEdge (ptrAddr narrowEdge hl.ptr) 0x200 0x200 ∧ xmHas narrowEdge narrowEdge.ra = true
      ∧ narrowEdge.ra.toNat < narrowEdge.params.pmWords :=
  ⟨.inr (.inr ⟨by decide, by decide, by decide⟩), .inr ⟨by decide, by decide, by decide⟩, by decide, by decide⟩

/-- ByteTransferUndefined, first clause: the first and the last pointer register -/
theorem witness_ByteTransferUndefined_post :
    Invariant (sfrBank 0xF 0x9) ∧ SecondNibble (sfrBank 0xF 0x9) (ptrAddr (sfrBank 0xF 0x9) hlP.ptr) 0x0FA
      ∧ prohibitedPost (.ind hlP) (ptrAddr (sfrBank 0xF 0x9) hlP.ptr) = true
      ∧ SecondNibble (sfrBank 0xF 0xE) (ptrAddr (sfrBank 0xF 0xE) xyP.ptr) 0x0FF
      ∧ prohibitedPost (.ind xyP) (ptrAddr (sfrBank 0xF 0xE) xyP.ptr) = true
      ∧ (sfrBank 0xF 0x9).ra.toNat < (sfrBank 0xF 0x9).params.pmWords
      ∧ xmHas (sfrBank 0xF 0x9) (sfrBank 0xF 0x9).ra = true :=
  ⟨sfrBank_invariant _ _, .inl ⟨by decide, by decide⟩, by decide, .inl ⟨by decide, by decide⟩, by decide, by decide,
    by decide⟩

/-- ByteTransferUndefined, second clause: XY = 0F8H puts its second nibble into Y -/
theorem witness_ByteTransferUndefined_pair :
    ByteReady xyP 0x0F9 (sfrBank 0xF 0x8) ∧ pairSafe xyP 0x0F9 = false
      ∧ (sfrBank 0xF 0x8).ra.toNat < (sfrBank 0xF 0x8).params.pmWords
      ∧ xmHas (sfrBank 0xF 0x8) (sfrBank 0xF 0x8).ra = true :=
  ⟨⟨sfrBank_invariant _ _, .inl ⟨by decide, by decide⟩, by decide, by decide, by decide⟩, by decide, by decide,
    by decide⟩

/-- Stack pointers at the last free and the first used level, and stacks that wrap. -/
def atLevels (sp : BitVec 5) (rsp : BitVec 4) (w : StackWrap) : State :=
  { base with sp := sp, rsp := rsp, params := { base.params with stackWrap := w } }

/-- PushPopResult, LongCallAndReturnResult, CallReturnRoundTrip: room and level at the ends -/
theorem witness_rooms :
    (atLevels 0x1E 0xE .fault).callRoom ∧ (atLevels 0x1E 0xE .fault).regRoom ∧ (atLevels 0x1F 0xF .wrap).callRoom
      ∧ (atLevels 0x1F 0xF .wrap).regRoom ∧ (atLevels 0x01 0x1 .fault).callLevel ∧ (atLevels 0x01 0x1 .fault).regLevel
      ∧ (atLevels 0x00 0x0 .wrap).callLevel ∧ (atLevels 0x00 0x0 .wrap).regLevel :=
  ⟨.inl (by decide), .inl (by decide), .inr rfl, .inr rfl, .inl (by decide), .inl (by decide), .inr rfl, .inr rfl⟩

/-- The state with frames of both kinds in its first two levels. -/
def frames (rsp : BitVec 4) : State :=
  { atLevels 1 rsp .fault with
    regStack := (base.regStack.set 0 (.hl true true false 9 5 10)).set 1 (.xy 12 4 3 7) }

/-- PushPopResult, second clause -/
theorem witness_PushPopResult :
    (frames 1).regLevel ∧ (frames 1).topFrame = .hl true true false 9 5 10 ∧ (frames 2).regLevel
      ∧ (frames 2).topFrame = .xy 12 4 3 7 :=
  ⟨.inl (by decide), by decide, .inl (by decide), by decide⟩

/-- PopMismatched: the other kind of frame, and a level never written -/
theorem witness_PopMismatched :
    (∀ g c z a h l, (frames 2).topFrame ≠ .hl g c z a h l) ∧ (∀ ebr cbr x y, (frames 1).topFrame ≠ .xy ebr cbr x y)
      ∧ (∀ g c z a h l, (frames 3).topFrame ≠ .hl g c z a h l) ∧ (frames 3).regLevel :=
  ⟨fun _ _ _ _ _ _ => nofun, fun _ _ _ _ => nofun, fun _ _ _ _ _ _ => nofun, .inl (by decide)⟩

/-- PushPopRoundTrip: another A and other banks between the PUSH and the POP -/
theorem witness_PushPopRoundTrip :
    let s := atLevels 0 0xE .fault
    ∃ t t', exec .pushHL s = .next t ∧ exec .pushXY s = .next t' ∧ s.regRoom ∧ t.params = s.params
      ∧ t'.params = s.params ∧ ({ t with a := 7 } : State).rsp = t.rsp :=
  ⟨_, _, rfl, rfl, .inl (by decide), rfl, rfl, rfl⟩

/-- StackLimits, PushPopResult and LongCallAndReturnResult: each of their stops, interrupt entry among them -/
theorem witness_StackLimits :
    (atLevels 0x1F 0xF .fault).params.stackWrap = .fault ∧ (atLevels 0x1F 0xF .fault).sp = 0x1F#5
      ∧ (atLevels 0x1F 0xF .fault).rsp = 0xF#4 ∧ (atLevels 0x00 0x0 .fault).sp = 0x00#5
      ∧ (atLevels 0x00 0x0 .fault).rsp = 0x0#4
      ∧ acceptedSource (asking nonMaskable (atLevels 0x1F 0xF .fault)) ≠ none := by decide

/-- PageJumpResult: before the edge, and at it under each policy that goes on -/
theorem witness_PageJumpResult :
    (0x5FFE : Word).toNat % 4096 ≠ 4095 ∧ (0x5 : Nibble).toNat = (0x5FFE : Word).toNat / 4096
      ∧ (0xFFFF : Word).toNat % 4096 = 4095 ∧ (0xF : Nibble).toNat = (0xFFFF : Word).toNat / 4096
      ∧ (0x0 : Nibble).toNat = ((0xFFFF : Word).toNat / 4096 + 1) % 16
      ∧ ({ base.params with pageBitsAtFff := .own } : Params).pageBitsAtFff = .own
      ∧ ({ base.params with pageBitsAtFff := .next } : Params).pageBitsAtFff = .next := by decide

/-- RefusedPrograms: each of its stops -/
theorem witness_RefusedPrograms :
    let s := atPc [0x0001, 0x000E] { base with pc := 0x0FFF }
    s.pc.toNat % 4096 = 4095 ∧ s.params.pageBitsAtFff = .refuse ∧ s.callRoom ∧ s.params.hasMelody = false
      ∧ s.params.haltNopCheck = .refuse ∧ (s.pc + 1).toNat < s.params.pmWords ∧ s.pmPeek (s.pc + 1) ≠ 0x0000#16 :=
  ⟨by decide, by decide, .inl (by decide), by decide, by decide, by decide, by decide⟩

/-- RefusedPrograms, last clause: HALT in the last word of program memory -/
theorem witness_RefusedPrograms_halt_end :
    let s := { base with pc := 0x0FFF, params := { base.params with pmWords := 4096 } }
    s.params.haltNopCheck = .refuse ∧ s.params.pmWords ≤ (s.pc + 1).toNat := by decide

/-- CallReturnRoundTrip: the return finds the stack as the call left it, other registers changed -/
theorem witness_CallReturnRoundTrip :
    let s := { atLevels 0x1E 0 .fault with pc := 0xFFFD }
    ∃ t t', exec (.cal 0x456) s = .next t ∧ exec (.lcal 0xABCD) s = .next t' ∧ s.callRoom
      ∧ ({ t with a := 7 } : State).params = s.params ∧ ({ t with a := 7 } : State).callStack = t.callStack
      ∧ ({ t' with a := 7 } : State).sp = t'.sp :=
  ⟨_, _, rfl, rfl, .inl (by decide), rfl, rfl, rfl⟩

/-- ControlResult: HALT before a NOP at the last program word, HALT unchecked, MSA with a melody circuit -/
theorem witness_ControlResult :
    let s := atPc [0x0001, 0x0000] { base with pc := 0xFFFE }
    ((s.pc + 1).toNat < s.params.pmWords ∧ s.pmPeek (s.pc + 1) = 0x0000#16)
      ∧ ({ s.params with haltNopCheck := .ignore } : Params).haltNopCheck = .ignore
      ∧ ({ s.params with hasMelody := true } : Params).hasMelody = true := by decide

/-- Both sources asking at a boundary with MIE = 1. -/
def both : State :=
  { base with mie := true, params := { base.params with irq := [maskable, nonMaskable] }, requests := [1, 2] }

/-- AcceptanceRule: of two that ask, the larger priority -/
theorem witness_AcceptanceRule :
    acceptedSource both = some nonMaskable ∧ acceptedSource { both with requests := [1] } = some maskable
      ∧ acceptedSource { both with requests := [1], mie := false } = none := by decide

/-- MaskableEntry and NonMaskableEntry: at the last free level -/
theorem witness_entries :
    let s := asking maskable { base with mie := true, sp := 0x1E }
    let n := { asking nonMaskable { base with sp := 0x1E } with inputs := [.quiet] }
    CoreActs s s ∧ acceptedSource s = some maskable ∧ maskable.cls = .maskable ∧ s.callRoom
      ∧ CoreActs n { n with inputs := [] } ∧ acceptedSource { n with inputs := [] } = some nonMaskable
      ∧ nonMaskable.cls = .nonMaskable ∧ n.callRoom :=
  ⟨.inl ⟨rfl, rfl⟩, by decide, rfl, .inl (by decide), .inr ⟨[], rfl, rfl⟩, by decide, rfl, .inl (by decide)⟩

/-- InterruptRoundTrip: an entry of each class, the handler having changed A -/
theorem witness_InterruptRoundTrip :
    let s := asking maskable { base with mie := true }
    let n := asking nonMaskable base
    ∃ t t', step s = .next t ∧ acceptedSource s = some maskable ∧ s.inputs = [] ∧ step n = .next t'
      ∧ acceptedSource n = some nonMaskable ∧ n.inputs = []
      ∧ ({ t with a := 7 } : State).callStack = t.callStack ∧ ({ t' with a := 7 } : State).mieSaved = t'.mieSaved :=
  ⟨_, _, rfl, by decide, rfl, rfl, by decide, rfl, rfl, rfl⟩

/-- MaskableEntry, second clause: no free level -/
theorem witness_MaskableEntry_stop :
    let s := asking maskable { atLevels 0x1F 0 .fault with mie := true }
    CoreActs s s ∧ acceptedSource s = some maskable ∧ s.sp = 0x1F#5 ∧ s.params.stackWrap = .fault :=
  ⟨.inl ⟨rfl, rfl⟩, by decide, rfl, rfl⟩

/-- HaltedStep: halted with a masked request, with nothing asking, and with no source at all -/
theorem witness_HaltedStep :
    let s := asking maskable { base with halted := true }
    let q := { both with halted := true, requests := [] }
    CoreActs s s ∧ acceptedSource s = none ∧ s.halted = true ∧ q.inputs = [] ∧ q.halted = true
      ∧ ∀ src ∈ q.params.irq, src.name ∉ q.requests :=
  ⟨.inl ⟨rfl, rfl⟩, by decide, rfl, rfl, rfl, fun _ _ => nofun⟩

/-- ExternalReset: while halted, one nibble of RAM drawn twice, one below RAM, one not drawn -/
theorem witness_ExternalReset :
    let ram := [((0x100 : DataAddr), (5 : Nibble)), (0x100, 6), (0x0F2, 7)]
    let draw : ResetDraw := ⟨true, true, base.callStack, ram⟩
    let s := { base with halted := true, inputs := [.reset draw] }
    s.inputs = .reset draw :: [] ∧ Invariant s ∧ ram.reverse.lookup 0x100 = some 6 ∧ (0xFFF : DataAddr) ∉ ram.map Prod.fst :=
  ⟨rfl, ⟨base_invariant.pm, base_invariant.dm, base_invariant.xm, base_invariant.params, base_invariant.requests⟩,
    by decide, by decide⟩

/-- OutsideEvents: each event -/
theorem witness_OutsideEvents :
    let s := fun i => ({ base with inputs := [i] } : State)
    (s (.request 3)).inputs = .request 3 :: [] ∧ (s (.withdraw 3)).inputs = .withdraw 3 :: []
      ∧ (s (.device 9)).inputs = .device 9 :: [] ∧ (s (.external 0xFFFF 0xA5)).inputs = .external 0xFFFF 0xA5 :: [] :=
  ⟨rfl, rfl, rfl, rfl⟩

/-- RunEnds: a stop, Halted and StillRunning each happen, and with a source in the table -/
theorem witness_RunEnds :
    runFor 2 (atPc [0x000A] base) = .stopped (.undefinedInstruction 0x000A) (atPc [0x000A] base)
      ∧ runFor 1 (atPc [0x0001, 0x0000] base) = .halted { atPc [0x0001, 0x0000] base with halted := true, pc := 0x0201 }
      ∧ runFor 1 (atPc [0x09FF] base) = .stillRunning (atPc [0x09FF] base) := by decide

/-- RunEnds, the two programs: at the last words, with a source that does not ask -/
theorem witness_RunEnds_programs :
    let s := atPc [0x0001, 0x0000] { both with pc := 0xFFFE, requests := [] }
    let w := atPc [0x09FF] { both with pc := 0xFFFF, requests := [] }
    (s.inputs = [] ∧ s.halted = false ∧ (∀ src ∈ s.params.irq, src.name ∉ s.requests) ∧ s.pc.toNat < s.params.pmWords
      ∧ (s.pc + 1).toNat < s.params.pmWords ∧ s.pmPeek s.pc = 0x0001#16 ∧ s.pmPeek (s.pc + 1) = 0x0000#16)
    ∧ w.inputs = [] ∧ w.halted = false ∧ (∀ src ∈ w.params.irq, src.name ∉ w.requests)
      ∧ w.pc.toNat < w.params.pmWords ∧ w.pmPeek w.pc = 0x09FF#16 := by decide

/-- R541 (b): a masked request does not keep a halted run from its end, a request still to come does, and so does a reset -/
theorem test_isTerminal :
    (asking maskable { base with halted := true }).isTerminal = true
      ∧ ({ both with halted := true, requests := [], inputs := [.device 1, .request 1] } : State).isTerminal = false
      ∧ ({ base with halted := true, inputs := [.reset ⟨true, true, base.callStack, []⟩] } : State).isTerminal = false := by
  decide

/-- R540 and log 29: a non-maskable request that survives a reset is accepted before the first fetch, from 0000H -/
theorem test_nmi_after_reset :
    gives [] (asking nonMaskable (resetFrom ⟨false, false, base.callStack, []⟩ base)) (fun t =>
      t.pc == 0x0004 && t.callStack[0] == 0xFFFF) = true := by decide

/-- InvariantKept and ProgramMemoryKept: a step that stores to RAM -/
theorem witness_InvariantKept :
    let s := atPc [0xCFFF] { base with a := 9 }
    ∃ t, Invariant s ∧ step s = .next t :=
  ⟨_, ⟨by decide, by decide, by decide, by decide, by decide⟩, rfl⟩

/-- MieWriters: an instruction, a reset and an entry that change MIE -/
theorem witness_MieWriters :
    (∃ t, exec .ei base = .next t ∧ t.mie ≠ base.mie)
      ∧ (∃ t, step { base with mie := true, inputs := [.reset ⟨false, false, base.callStack, []⟩] } = .next t
        ∧ t.mie ≠ true)
      ∧ ∃ t, step both = .next t ∧ t.mie ≠ both.mie :=
  ⟨⟨_, rfl, by decide⟩, ⟨_, rfl, by decide⟩, ⟨_, rfl, by decide⟩⟩

/-- StateWriters: a change of each piece of state it names -/
theorem witness_StateWriters :
    (∃ t, exec (.cal 0) base = .next t ∧ t.sp ≠ base.sp ∧ t.callStack ≠ base.callStack)
      ∧ (∃ t, exec .pushHL base = .next t ∧ t.regStack ≠ base.regStack)
      ∧ (∃ t, exec .halt base = .next t ∧ t.halted ≠ base.halted)
      ∧ ∃ t, exec (.movxbStoreAbs 0 hl) { base with dm := [(0x100, 5)] } = .next t ∧ t.xm ≠ [] :=
  ⟨⟨_, rfl, by decide, by decide⟩, ⟨_, rfl, by decide⟩, ⟨_, rfl, by decide⟩, ⟨_, rfl, by decide⟩⟩

end Sys2Proof.Tests
end

section
/-! SUPPORT. The statements of 10_state.md: the map of data memory, the limits of the two stacks, and which instructions
write the state that has no data address. -/

namespace Sys2Proof.Machine

/-! ### Data memory by what stands at the address (R80, R81) -/

theorem dmRead_addr (s : State) (r : CoreReg) : dmRead s r.addr = .ok (s.coreGet r, s) := by
  simp only [dmRead, dmCell_addr]

theorem dmWrite_addr (s : State) (r : CoreReg) (v : Nibble) : dmWrite s r.addr v = .ok (s.coreSet r v) := by
  simp only [dmWrite, dmCell_addr]

theorem dmRead_ram (s : State) {a : DataAddr} (h : 0x100 ≤ a.toNat) :
    dmRead s a = if inRanges s.params.ramImpl a.toNat then .ok (Mem.read dmFill s.dm a.toNat, s)
      else .error (.unimplementedDM a) := by
  simp only [dmRead, (dmCell_eq_ram_iff a).2 h]

theorem dmWrite_ram (s : State) {a : DataAddr} (v : Nibble) (h : 0x100 ≤ a.toNat) :
    dmWrite s a v = if inRanges s.params.ramImpl a.toNat then .ok { s with dm := Mem.write dmFill s.dm a.toNat v }
      else .error (.unimplementedDM a) := by
  simp only [dmWrite, (dmCell_eq_ram_iff a).2 h]

theorem dmCell_periph {a : DataAddr} (h : a.toNat ≤ 0x0F1) : dmCell a = .periph :=
  (dmCell_eq_periph_iff a).2 (decide_eq_true (Nat.lt_succ_of_le h))

theorem dmRead_periph (s : State) {a : DataAddr} (h : a.toNat ≤ 0x0F1) :
    dmRead s a = if inRanges s.params.periph a.toNat
      then .ok (Config.periphRead s.dev a, { s with dev := Config.periphAfterRead s.dev a })
      else .error (.unimplementedSFR a) := by
  simp only [dmRead, dmCell_periph h]

theorem dmWrite_periph (s : State) {a : DataAddr} (v : Nibble) (h : a.toNat ≤ 0x0F1) :
    dmWrite s a v = if inRanges s.params.periph a.toNat then .ok { s with dev := Config.periphAfterWrite s.dev a v }
      else .error (.unimplementedSFR a) := by
  simp only [dmWrite, dmCell_periph h]

/-- SPL as data memory reads it: SP3..SP0 (R36). -/
theorem coreGet_spl (s : State) : s.coreGet .spl = BitVec.ofNat 4 (s.sp.toNat % 16) :=
  (by decide : ∀ sp : BitVec 5, sp.extractLsb' 0 4 = BitVec.ofNat 4 (sp.toNat % 16)) s.sp

/-- SPH as data memory reads it: SP4 below three reserved bits that read 1 (R36). -/
theorem coreGet_sph (s : State) : s.coreGet .sph = BitVec.ofNat 4 (14 + s.sp.toNat / 16) :=
  (by decide : ∀ sp : BitVec 5, 0b111#3 ++ sp.extractLsb' 4 1 = BitVec.ofNat 4 (14 + sp.toNat / 16)) s.sp

/-- MIEF as data memory reads it: MIE below three reserved bits that read 1 (R36). -/
theorem coreGet_mief (s : State) : s.coreGet .mief = if s.mie then 0xF else 0xE := by
  simp only [State.coreGet]
  cases s.mie <;> rfl

/-- A RAM write changes RAM alone: it is read back from a canonical memory, and every other address is untouched. -/
theorem dmWrite_ram_ok (s : State) {a : DataAddr} (v : Nibble) (h : 0x100 ≤ a.toNat)
    (hin : inRanges s.params.ramImpl a.toNat = true) :
    ∃ t, dmWrite s a v = .ok t ∧ t = { s with dm := t.dm }
      ∧ (Invariant s → Mem.read dmFill t.dm a.toNat = v)
      ∧ ∀ b, b ≠ a.toNat → Mem.read dmFill t.dm b = Mem.read dmFill s.dm b :=
  ⟨{ s with dm := Mem.write dmFill s.dm a.toNat v }, (dmWrite_ram s v h).trans (if_pos hin), rfl,
    fun inv => Mem.read_write_same inv.dm, fun _ hb => Mem.read_write_ne hb⟩

/-- Settles O13: each address of Table 1-2 by the register that stands there, then RAM and the device by their ranges. -/
theorem dataMemoryMap : Obligations.DataMemoryMap := by
  intro s v
  refine ⟨⟨dmRead_addr s .ra0, dmWrite_addr s .ra0 v⟩, ⟨dmRead_addr s .ra1, dmWrite_addr s .ra1 v⟩,
    ⟨dmRead_addr s .ra2, dmWrite_addr s .ra2 v⟩, ⟨dmRead_addr s .ra3, dmWrite_addr s .ra3 v⟩,
    ⟨dmRead_addr s .rsp, dmWrite_addr s .rsp v⟩,
    ⟨coreGet_spl s ▸ dmRead_addr s .spl, dmWrite_addr s .spl v⟩,
    ⟨coreGet_sph s ▸ dmRead_addr s .sph, dmWrite_addr s .sph v⟩,
    ⟨dmRead_addr s .y, dmWrite_addr s .y v⟩, ⟨dmRead_addr s .x, dmWrite_addr s .x v⟩,
    ⟨dmRead_addr s .l, dmWrite_addr s .l v⟩, ⟨dmRead_addr s .h, dmWrite_addr s .h v⟩,
    ⟨dmRead_addr s .cbr, dmWrite_addr s .cbr v⟩, ⟨dmRead_addr s .ebr, dmWrite_addr s .ebr v⟩,
    ⟨coreGet_mief s ▸ dmRead_addr s .mief, dmWrite_addr s .mief v⟩, ?ram, ?noRam, ?device, ?noDevice⟩
  case ram => exact fun a ha hin => ⟨(dmRead_ram s ha).trans (if_pos hin), dmWrite_ram_ok s v ha hin⟩
  case noRam =>
    intro a ha hout
    simp only [dmRead_ram s ha, dmWrite_ram s v ha, hout, Bool.false_eq_true, if_false, and_self]
  case device =>
    intro a ha hin
    simp only [dmRead_periph s ha, dmWrite_periph s v ha, hin, if_true]
    exact ⟨⟨_, rfl⟩, _, rfl⟩
  case noDevice =>
    intro a ha hout
    simp only [dmRead_periph s ha, dmWrite_periph s v ha, hout, Bool.false_eq_true, if_false, and_self]

/-! ### The limits of the stacks (R35) -/

theorem callPush_full {s : State} (hsp : s.sp = 0x1F#5) (hw : s.params.stackWrap = .fault) (v : Word) :
    callPush s v = .error .stackOverflowCall :=
  if_pos ⟨hsp, hw⟩

theorem callReturn_empty {s : State} (hsp : s.sp = 0x00#5) (hw : s.params.stackWrap = .fault) :
    callReturn s = .error .stackUnderflowCall :=
  if_pos ⟨hsp, hw⟩

theorem framePush_full {s : State} (hrsp : s.rsp = 0xF#4) (hw : s.params.stackWrap = .fault) (f : Frame) :
    framePush s f = .error .stackOverflowRegister :=
  if_pos ⟨hrsp, hw⟩

theorem framePop_empty {s : State} (hrsp : s.rsp = 0x0#4) (hw : s.params.stackWrap = .fault) :
    framePop s = .error .stackUnderflowRegister :=
  if_pos ⟨hrsp, hw⟩

theorem returnWith_empty {s : State} (hsp : s.sp = 0x00#5) (hw : s.params.stackWrap = .fault) (mie : Bool) :
    returnWith mie s = .fault .stackUnderflowCall := by
  simp only [returnWith, callReturn_empty hsp hw]

theorem pushFrame_full {s : State} (hrsp : s.rsp = 0xF#4) (hw : s.params.stackWrap = .fault) (f : Frame) :
    pushFrame f s = .fault .stackOverflowRegister := by
  simp only [pushFrame, framePush_full hrsp hw]

/-- An interrupt finds no free level of the call stack: the boundary stops. -/
theorem boundary_full {s : State} (hsp : s.sp = 0x1F#5) (hw : s.params.stackWrap = .fault)
    (ha : acceptedSource s ≠ none) : boundary s = .fault .stackOverflowCall := by
  obtain ⟨src, hsrc⟩ := Option.ne_none_iff_exists'.1 ha
  simp only [boundary, hsrc, takeInterrupt, callPush_full hsp hw, ofExcept]

/-- Settles O36: the stack operation stops, and the instruction with it; interrupt entry saves PC as a call does. -/
theorem stackLimits : Obligations.StackLimits := by
  intro s hw
  refine ⟨fun hsp a b => ?call, fun hsp => ?ret, fun hrsp => ?push, fun hrsp => ?pop, fun hsp hin ha => ?entry⟩
  case call =>
    constructor
    · simp only [exec, execCal, callPush_full hsp hw]
    · simp only [exec, execLcal, callPush_full hsp hw]
  case ret =>
    simp only [List.mem_cons, List.not_mem_nil, or_false]
    rintro i (rfl | rfl | rfl) <;> exact returnWith_empty hsp hw _
  case push =>
    simp only [List.mem_cons, List.not_mem_nil, or_false]
    rintro i (rfl | rfl) <;> exact pushFrame_full hrsp hw _
  case pop =>
    simp only [List.mem_cons, List.not_mem_nil, or_false]
    rintro i (rfl | rfl)
    · simp only [exec, execPopHL, framePop_empty hrsp hw]
    · simp only [exec, execPopXY, framePop_empty hrsp hw]
  case entry => exact (step_of_coreActs (.inl ⟨hin, rfl⟩)).trans (boundary_full hsp hw ha)

/-! ### What an instruction can write of the state that has no data address -/

theorem setFlags_kept (s : State) (c z g : Bool) (pc : Word) : DataKept s { s with c := c, z := z, g := g, pc := pc } :=
  .of_eq (by constructor <;> rfl) rfl rfl

theorem setReg4_kept (s : State) (r : Reg4) (v : Nibble) : DataKept s (s.setReg4 r v) :=
  .of_eq (by constructor <;> simp) (by simp) (by simp)

theorem setRaG_kept (s : State) (v : Word) (g : Bool) : DataKept s ((s.setRa v).setG g) :=
  .of_eq (by constructor <;> rfl) rfl rfl

theorem loadHL_kept (s : State) (f : Frame) : DataKept s (s.loadHL f) :=
  .of_eq (by constructor <;> simp) (by simp) (by simp)

theorem loadXY_kept (s : State) (f : Frame) : DataKept s (s.loadXY f) :=
  .of_eq (by constructor <;> simp) (by simp) (by simp)

theorem framePop_kept {s t : State} {f : Frame} (h : framePop s = .ok (f, t)) : DataKept s t := by
  obtain ⟨-, -, rfl⟩ := framePop_ok h
  exact .of_eq (by constructor <;> rfl) rfl rfl

/-- Everything an instruction that completes from `s` can do, away from data memory and the registers that have a data
address: most instructions do nothing there, and each other kind makes the one change named. -/
inductive ExecEffect (s : State) : Instr → State → Prop where
  /-- nothing but data memory, its registers, A, the flags and PC is written -/
  | data {i : Instr} {t : State} (h : DataKept s t) : ExecEffect s i t
  /-- a call fills one level of the call stack (R446, R447) -/
  | call {i : Instr} (hi : (∃ a, i = .cal a) ∨ ∃ a, i = .lcal a) (room : s.callRoom) (v pc : Word) :
      ExecEffect s i { s.withCallLevel v with pc := pc }
  /-- a return frees one level of the call stack, and RT keeps MIE (R450 to R455) -/
  | ret {i : Instr} (hi : i = .rt ∨ i = .rti ∨ i = .rtnmi) (level : s.callLevel) (mie : Bool)
      (hmie : i = .rt → mie = s.mie) :
      ExecEffect s i { s with sp := s.sp - 1, pc := s.topCall + 1, mie := mie }
  /-- a PUSH fills one level of the register stack (R410, R411) -/
  | push {i : Instr} (hi : i = .pushHL ∨ i = .pushXY) (room : s.regRoom) (f : Frame) :
      ExecEffect s i
        { s with regStack := s.regStack.set s.rsp.toNat f s.rsp.isLt, rsp := s.rsp + 1, pc := s.pc + 1 }
  /-- EI and DI write MIE (R486, R487) -/
  | master {i : Instr} (hi : i = .ei ∨ i = .di) (mie : Bool) : ExecEffect s i { s with mie := mie, pc := s.pc + 1 }
  /-- MSA tells the device hook its address (R483) -/
  | melody (cadr : Word) : ExecEffect s (.msa cadr) { s with melodyStart := some cadr, pc := s.pc + 2 }
  /-- HALT enters halt mode (R484) -/
  | halt : ExecEffect s .halt { s with halted := true, pc := s.pc + 1 }
  /-- MOVXB out of data memory writes one byte of external memory (R391, R392) -/
  | store {i : Instr} {t : State} (hi : (∃ o, i = .movxbStoreRA o) ∨ ∃ a o, i = .movxbStoreAbs a o)
      (core : CoreKept s t) (dm : t.dm = s.dm) (xm : ∃ dst b, t.xm = Mem.write xmFill s.xm dst b) : ExecEffect s i t

section
variable {s t : State}

theorem execJmp_kept {cadr : BitVec 12} (h : execJmp cadr s = .next t) : DataKept s t := by
  unfold execJmp at h
  split at h
  · cases h
  · cases h; exact setPc_kept s _

theorem branchIf_kept {cond : Bool} {d : BitVec 8} (h : branchIf cond d s = .next t) : DataKept s t := by
  cases h; exact setPc_kept s _

theorem execPopHL_kept (h : execPopHL s = .next t) : DataKept s t := by
  unfold execPopHL at h
  split at h
  · cases h
  · rename_i f u hu
    cases h
    exact (framePop_kept hu).trans ((loadHL_kept u f).trans (setPc_kept _ _))

theorem execPopXY_kept (h : execPopXY s = .next t) : DataKept s t := by
  unfold execPopXY at h
  split at h
  · cases h
  · rename_i f u hu
    cases h
    exact (framePop_kept hu).trans ((loadXY_kept u f).trans (setPc_kept _ _))

theorem execCal_effect {cadr : BitVec 12} (h : execCal cadr s = .next t) : ExecEffect s (.cal cadr) t := by
  unfold execCal at h
  split at h
  · cases h
  · rename_i u hu
    obtain ⟨room, rfl⟩ := callPush_ok hu
    split at h
    · cases h
    · cases h; exact .call (.inl ⟨cadr, rfl⟩) room _ _

theorem execLcal_effect {cadr : Word} (h : execLcal cadr s = .next t) : ExecEffect s (.lcal cadr) t := by
  unfold execLcal at h
  split at h
  · cases h
  · rename_i u hu
    obtain ⟨room, rfl⟩ := callPush_ok hu
    cases h; exact .call (.inr ⟨cadr, rfl⟩) room _ _

theorem returnWith_effect {i : Instr} {mie : Bool} (hi : i = .rt ∨ i = .rti ∨ i = .rtnmi)
    (hmie : i = .rt → mie = s.mie) (h : returnWith mie s = .next t) : ExecEffect s i t := by
  unfold returnWith at h
  split at h
  · cases h
  · rename_i u hu
    obtain ⟨level, rfl⟩ := callReturn_ok hu
    cases h; exact .ret hi level mie hmie

theorem pushFrame_effect {i : Instr} {f : Frame} (hi : i = .pushHL ∨ i = .pushXY) (h : pushFrame f s = .next t) :
    ExecEffect s i t := by
  unfold pushFrame at h
  split at h
  · cases h
  · rename_i u hu
    obtain ⟨room, rfl⟩ := framePush_ok hu
    cases h; exact .push hi room f

theorem execMsa_effect {cadr : Word} (h : execMsa cadr s = .next t) : ExecEffect s (.msa cadr) t := by
  unfold execMsa at h
  split at h
  · cases h; exact .melody cadr
  · cases h

theorem execHalt_effect (h : execHalt s = .next t) : ExecEffect s .halt t := by
  unfold execHalt at h
  split at h
  · cases h
  · cases h; exact .halt

theorem byteStore_effect {i : Instr} {o : Ind} {dst len : Word}
    (hi : (∃ o, i = .movxbStoreRA o) ∨ ∃ a o, i = .movxbStoreAbs a o) (h : byteStore o dst len s = .next t) :
    ExecEffect s i t := by
  obtain ⟨core, dm, b, xm⟩ := byteStore_kept h
  exact .store hi core dm ⟨_, b, xm⟩

/-- Every instruction that completes has one of the effects, by its kind. -/
theorem exec_effect {i : Instr} (h : exec i s = .next t) : ExecEffect s i t := by
  cases i with
  | movObjA | movAObj | movObjImm | xch | rol | ror | inc | dec
  | addA | addImm | adc | adcd | adcj | subA | subImm | sbc | sbcd | sbcj
  | cmpA | cmpImm | andA | andImm | orA | orImm | xorA | xorImm
  | mclr | mset | mnot | mtstA | mtstImm | mmov | bclr | bset | bnot | btst | bmov => exact .data (nibbleOp_kept h)
  | movhbRA | movhbAbs | movlbRA | movlbAbs | movxbLoadRA | movxbLoadAbs => exact .data (byteLoad_kept h)
  | movxbStoreRA o => exact byteStore_effect (.inl ⟨o, rfl⟩) h
  | movxbStoreAbs a o => exact byteStore_effect (.inr ⟨a, o, rfl⟩) h
  | movAImm => cases h; exact .data ((setAcz_kept s _ _ _).trans (setPc_kept _ _))
  | movReg => cases h; exact .data ((setReg4_kept s _ _).trans (setPc_kept _ _))
  | incbHL | incbXY => cases h; exact .data ((incPair_kept s _ _).trans (setPc_kept _ _))
  | incwRA => cases h; exact .data ((setRaG_kept s _ _).trans (setPc_kept _ _))
  | pushHL => exact pushFrame_effect (.inl rfl) h
  | pushXY => exact pushFrame_effect (.inr rfl) h
  | popHL => exact .data (execPopHL_kept h)
  | popXY => exact .data (execPopXY_kept h)
  | fclrC | fclrZ | fclrG | fclrFlag | fsetC | fsetZ | fsetG | fsetFlag =>
    cases h; exact .data (setFlags_kept s _ _ _ _)
  | jmp => exact .data (execJmp_kept h)
  | ljmp | sjmp | jmpPcA | nop => cases h; exact .data (setPc_kept s _)
  | bc | blt | bnc | bge | bz | beq | bnz | bne | ble | bgt | bng => exact .data (branchIf_kept h)
  | cal => exact execCal_effect h
  | lcal => exact execLcal_effect h
  | rt => exact returnWith_effect (.inl rfl) (fun _ => rfl) h
  | rti => exact returnWith_effect (.inr (.inl rfl)) nofun h
  | rtnmi => exact returnWith_effect (.inr (.inr rfl)) nofun h
  | msa => exact execMsa_effect h
  | halt => exact execHalt_effect h
  | ei => cases h; exact .master (.inl rfl) _
  | di => cases h; exact .master (.inr rfl) _

end

/-- Settles O60, by the effect an instruction has on the state without a data address. -/
theorem stateWriters : Obligations.StateWriters := by
  intro i s t h
  cases exec_effect h with
  | data k =>
    simp only [k.core.sp, k.core.callStack, k.core.regStack, k.core.mieSaved, k.core.halted, k.xm, ne_eq,
      not_true_eq_false, false_implies, and_self]
  | call hi => exact ⟨fun _ => hi.imp_right .inl, fun _ => hi, absurd rfl, rfl, absurd rfl, absurd rfl⟩
  | ret hi => exact ⟨fun _ => .inr (.inr hi), absurd rfl, absurd rfl, rfl, absurd rfl, absurd rfl⟩
  | push hi => exact ⟨absurd rfl, absurd rfl, fun _ => hi, rfl, absurd rfl, absurd rfl⟩
  | master => exact ⟨absurd rfl, absurd rfl, absurd rfl, rfl, absurd rfl, absurd rfl⟩
  | melody => exact ⟨absurd rfl, absurd rfl, absurd rfl, rfl, absurd rfl, absurd rfl⟩
  | halt => exact ⟨absurd rfl, absurd rfl, absurd rfl, rfl, fun _ => rfl, absurd rfl⟩
  | store hi k =>
    exact ⟨absurd k.sp, absurd k.callStack, absurd k.regStack, k.mieSaved, absurd k.halted, fun _ => hi⟩

end Sys2Proof.Machine
end

section
/-! SUPPORT. The statements of 20_memory.md: where a fetch stops, effective addresses, the one-nibble
instructions whose access stops or is prohibited, and the invariant and program memory over a step. -/

namespace Sys2Proof.Machine

/-! ### Two-word instructions have a two-word first word (R121) -/

theorem decodeOp8_words {oooo : Nat} {o : SfrObj} {i : Instr} (h : decodeOp8 oooo o = some i) : i.words = 1 := by
  unfold decodeOp8 at h
  split at h <;> cases h <;> rfl

theorem decodeImm8_words {tttt : Nat} {o : CurObj} {b : Nibble} {i : Instr} (h : decodeImm8 tttt o b = some i) :
    i.words = 1 := by
  unfold decodeImm8 at h
  split at h <;> cases h <;> rfl

theorem decodeBr8_words {cc s : Nat} {d : BitVec 8} {i : Instr} (h : decodeBr8 cc s d = some i) : i.words = 1 := by
  unfold decodeBr8 at h
  split at h <;> cases h <;> rfl

theorem decodeJ_words {b : Nat} {o : CurObj} {n : Base} {i : Instr} (h : decodeJ b o n = some i) : i.words = 1 := by
  unfold decodeJ at h
  split at h <;> cases h <;> rfl

theorem decodeIndi_words {yy xx : Nat} {o : CurObj} {b : Nibble} {i : Instr} (h : decodeIndi yy xx o b = some i) :
    i.words = 1 := by
  unfold decodeIndi at h
  split at h <;> cases h <;> rfl

theorem decodeRi_words {gg rr : Nat} {b : Nibble} {i : Instr} (h : decodeRi gg rr b = some i) : i.words = 1 := by
  unfold decodeRi at h
  split at h <;> cases h <;> rfl

/-- In format IND only MOVHB and MOVLB with an address have two words. -/
theorem decodeInd_twoWord {ggg ooo : Nat} {o : Ind} {second : Word} {i : Instr} (h : decodeInd ggg ooo o second = some i)
    (h2 : i.words = 2) : ggg = 3 ∧ (ooo = 4 ∨ ooo = 5) := by
  unfold decodeInd at h
  split at h <;> cases h <;> cases h2 <;> decide

/-- In format MISC only LJMP, LCAL and MSA have two words. -/
theorem decodeMisc_twoWord {n : Nat} {second : Word} {i : Instr} (h : decodeMisc n second = some i) (h2 : i.words = 2) :
    n = 0x14 ∨ n = 0x15 ∨ n = 0x16 := by
  unfold decodeMisc at h
  split at h <;> cases h <;> cases h2 <;> decide

theorem decodeX16_low {low : Nat} {o : Ind} {second : Word} {i : Instr} (h : decodeX16 low o second = some i) :
    low = 0 ∨ low = 1 := by
  unfold decodeX16 at h
  split at h <;> cases h <;> decide

/-- The three patterns of R121, by the fields that the decoder splits a word into. -/
theorem isTwoWord_of_fields {w : Word} (h12 : bits w 12 4 = 0) (h11 : bits w 11 1 = 0)
    (h : (bits w 6 2 = 0 ∧ bits w 8 3 = 0 ∧ bits w 5 1 ≠ 1
          ∧ (bits w 0 5 = 0x14 ∨ bits w 0 5 = 0x15 ∨ bits w 0 5 = 0x16))
      ∨ (bits w 6 2 = 0 ∧ bits w 8 3 = 3 ∧ (bits w 0 3 = 4 ∨ bits w 0 3 = 5))
      ∨ (bits w 6 2 = 3 ∧ bits w 8 3 = 3 ∧ (bits w 0 3 = 0 ∨ bits w 0 3 = 1))) : isTwoWord w = true := by
  simp only [isTwoWord, Bool.or_eq_true, Bool.and_eq_true, beq_iff_eq, ← BitVec.toNat_inj, BitVec.toNat_ofNat]
  simp only [bits] at *
  omega

theorem decodeLow00_twoWord {w second : Word} {i : Instr} (h : decodeLow00 w second = some i) (h2 : i.words = 2) :
    (bits w 8 3 = 0 ∧ bits w 5 1 ≠ 1 ∧ (bits w 0 5 = 0x14 ∨ bits w 0 5 = 0x15 ∨ bits w 0 5 = 0x16))
      ∨ (bits w 8 3 = 3 ∧ (bits w 0 3 = 4 ∨ bits w 0 3 = 5)) := by
  unfold decodeLow00 at h
  split at h
  case h_1 h8 =>
    split at h
    · simp [decodeRi_words h] at h2
    · exact .inl ⟨h8, ‹_›, decodeMisc_twoWord h h2⟩
  case h_2 | h_3 => simp [decodeRi_words h] at h2
  case h_4 | h_5 => simp [decodeJ_words h] at h2
  case h_6 => exact .inr (decodeInd_twoWord h h2)

theorem decodeLow11_twoWord {w second : Word} {i : Instr} (h : decodeLow11 w second = some i) (h2 : i.words = 2) :
    bits w 8 3 = 3 ∧ (bits w 0 3 = 0 ∨ bits w 0 3 = 1) := by
  unfold decodeLow11 at h
  split at h
  case h_1 | h_2 | h_3 | h_4 => cases h; cases h2
  case h_5 => split at h <;> cases h; cases h2
  case h_6 h8 => exact ⟨h8, decodeX16_low h⟩
  case h_7 => cases h

/-- A two-word instruction is decoded only from a first word that says so. -/
theorem isTwoWord_of_decodeFirst {w second : Word} {i : Instr} (h : decodeFirst w second = some i) (h2 : i.words = 2) :
    isTwoWord w = true := by
  unfold decodeFirst at h
  split at h
  case h_1 h12 =>
    unfold decodeLow at h
    split at h
    · simp [decodeBr8_words h] at h2
    · have h11 : bits w 11 1 = 0 := by unfold bits at *; omega
      refine isTwoWord_of_fields h12 h11 ?_
      split at h
      · rename_i h6
        exact (decodeLow00_twoWord h h2).imp (.intro h6) fun hind => .inl ⟨h6, hind⟩
      · exact .inr (.inr ⟨‹_›, decodeLow11_twoWord h h2⟩)
      · simp [decodeIndi_words h] at h2
  case h_2 => simp [decodeJ_words h] at h2
  case h_3 | h_4 => simp [decodeOp8_words h] at h2
  case h_5 | h_6 | h_7 | h_8 => cases h; cases h2
  case h_9 => simp [decodeImm8_words h] at h2

theorem isTwoWord_of_decode {core : CoreKind} {w second : Word} {i : Instr} (h : decode core w second = .ok i)
    (h2 : i.words = 2) : isTwoWord w = true := by
  unfold decode at h
  split at h
  · cases h
  · rename_i j hj
    split at h <;> cases h
    exact isTwoWord_of_decodeFirst hj h2

/-! ### Where a fetch stops (R74) -/

theorem pmRead_inside {s : State} {a : Word} (h : a.toNat < s.params.pmWords) : pmRead s a = .ok (s.pmPeek a) :=
  if_pos h

theorem pmRead_outside {s : State} {a : Word} (h : s.params.pmWords ≤ a.toNat) :
    pmRead s a = .error (.unimplementedPM a) :=
  if_neg (Nat.not_lt.2 h)

theorem fetch_first_outside {s : State} (h : s.params.pmWords ≤ s.pc.toNat) :
    fetch s = .error (.unimplementedPM s.pc) := by
  simp only [fetch, pmRead_outside h]

theorem fetch_second_outside {s : State} (h : s.pc.toNat < s.params.pmWords)
    (htwo : isTwoWord (s.pmPeek s.pc) = true) (hout : s.params.pmWords ≤ (s.pc + 1).toNat) :
    fetch s = .error (.unimplementedPM (s.pc + 1)) := by
  simp only [fetch, pmRead_inside h, fetchSecond, htwo, if_true, pmRead_outside hout]

/-- With no interrupt accepted and the core running, a boundary stops where its fetch stops. -/
theorem boundary_of_fetch_error {s : State} {e : Fault} (hno : acceptedSource s = none) (hrun : s.halted = false)
    (h : fetch s = .error e) : boundary s = .fault e := by
  simp only [boundary, hno, hrun, Bool.false_eq_true, if_false, runInstr, h]

/-- Settles O11: the first word is read first, and a two-word instruction needs its second. -/
theorem fetchStops : Obligations.FetchStops := by
  refine ⟨fun s u acts hno hrun hout => ?first, fun s u i acts hno hrun hin hdec h2 hout => ?second⟩
  case first =>
    exact (step_of_coreActs acts).trans (boundary_of_fetch_error hno hrun (fetch_first_outside hout))
  case second =>
    have htwo := isTwoWord_of_decode hdec h2
    exact (step_of_coreActs acts).trans (boundary_of_fetch_error hno hrun (fetch_second_outside hin htwo hout))

/-! ### Effective addresses (R84 to R91) -/

/-- The number of two joined fields. -/
theorem toNat_append_fields {n m : Nat} (x : BitVec n) (y : BitVec m) : (x ++ y).toNat = x.toNat * 2 ^ m + y.toNat := by
  rw [BitVec.toNat_append, ← Nat.shiftLeft_add_eq_or_of_lt y.isLt, Nat.shiftLeft_eq]

/-- A pointer's address as a number: bank, then the pair's high and low nibble (R87 to R89). -/
theorem ptrAddr_toNat (s : State) (p : Ptr) :
    (ptrAddr s p).toNat = (s.bankValue p.bank).toNat * 256 + (s.pairValue p.pair).toNat :=
  toNat_append_fields _ _

theorem hlPair_toNat (s : State) : s.hlPair.toNat = s.h.toNat * 16 + s.l.toNat := toNat_append_fields _ _

theorem xyPair_toNat (s : State) : s.xyPair.toNat = s.x.toNat * 16 + s.y.toNat := toNat_append_fields _ _

/-- Settles O12: each address is its fields joined, the bank above the offset. -/
theorem effectiveAddresses : Obligations.EffectiveAddresses := by
  intro s
  refine ⟨fun _ => rfl, fun r => ?sfr, fun r => toNat_append_fields s.cbr r, fun post => ?ind⟩
  case sfr => exact (toNat_append_fields 0x0#4 r).trans (by simp)
  case ind =>
    simp only [effAddr, ptrAddr_toNat, State.bankValue, State.pairValue, hlPair_toNat, xyPair_toNat, Nat.add_assoc,
      and_self]

/-! ### One-nibble instructions where the access stops, and at the prohibited operand (R80, R81, R93) -/

/-- In state `s` the instruction is the one-nibble skeleton on this operand, with a body that reads or writes (R200). -/
def NibbleForm (i : Instr) (o : Obj) (s : State) : Prop :=
  ∃ reads f, (reads = true ∨ ∀ v, (f v).store ≠ none) ∧ exec i s = nibbleOp reads o f s

theorem NibbleForm.of_read {i : Instr} {o : Obj} {s : State} (f : Nibble → Effect)
    (h : exec i s = nibbleOp true o f s) : NibbleForm i o s := ⟨true, f, .inl rfl, h⟩

theorem NibbleForm.of_store {i : Instr} {o : Obj} {s : State} (f : Nibble → Effect) (hs : ∀ v, (f v).store ≠ none)
    (h : exec i s = nibbleOp false o f s) : NibbleForm i o s := ⟨false, f, .inr hs, h⟩

theorem NibbleForm.stops {i : Instr} {o : Obj} {s : State} (hi : NibbleForm i o s)
    (h : s.accessible (effAddr s o) = false) : exec i s = .fault (noAnswer (effAddr s o)) := by
  obtain ⟨reads, f, hu, hexec⟩ := hi
  exact hexec.trans (nibbleOp_noAnswer reads o f s h hu)

theorem NibbleForm.scrambles {i : Instr} {o : Obj} {s : State} (hi : NibbleForm i o s) (inv : Invariant s)
    (h : prohibitedPost o (effAddr s o) = true) :
    ∃ t, exec i s = .next t ∧ Scrambled 1 s t ∧ t.dev = s.dev ∧ t.xm = s.xm := by
  obtain ⟨reads, f, -, hexec⟩ := hi
  exact hexec ▸ nibbleOp_scrambled reads o f s inv.dm h

/-- The one-nibble instructions with the ten operand forms of R260. -/
def sfrInstrs (o : SfrObj) : List Instr :=
  [.xch o, .rol o, .ror o, .inc o, .dec o, .addA o, .adc o, .adcd o, .subA o, .sbc o, .sbcd o, .cmpA o, .andA o, .orA o,
    .xorA o, .mtstA o]

/-- The one-nibble instructions with the nine operand forms of R260 and an operand in the word. -/
def curInstrs (o : CurObj) (b : Nibble) (n : Base) (k : BitVec 2) : List Instr :=
  [.movObjImm o b, .addImm o b, .subImm o b, .adcj o n, .sbcj o n, .cmpImm o b, .andImm o b, .orImm o b, .xorImm o b,
    .mclr o b, .mset o b, .mnot o b, .mtstImm o b, .bclr o k, .bset o k, .bnot o k, .btst o k]

theorem nibbleForm_sfr (o : SfrObj) (s : State) : ∀ i ∈ sfrInstrs o, NibbleForm i (sfrObj o) s := by
  simp only [sfrInstrs, List.forall_mem_cons, List.not_mem_nil, false_implies, implies_true, and_true]
  and_intros <;> exact .of_read _ rfl

theorem nibbleForm_cur (o : CurObj) (b : Nibble) (n : Base) (k : BitVec 2) (s : State) :
    ∀ i ∈ curInstrs o b n k, NibbleForm i (curObj o) s := by
  simp only [curInstrs, List.forall_mem_cons, List.not_mem_nil, false_implies, implies_true, and_true]
  refine ⟨.of_store _ (fun _ => Option.some_ne_none _) rfl, ?_⟩
  and_intros <;> exact .of_read _ rfl

theorem nibbleForm_dir (o : DirObj) (s : State) : ∀ i ∈ [Instr.movObjA o, .movAObj o], NibbleForm i (dirObj o) s := by
  simp only [List.forall_mem_cons, List.not_mem_nil, false_implies, implies_true, and_true]
  exact ⟨.of_store _ (fun _ => Option.some_ne_none _) rfl, .of_read _ rfl⟩

theorem nibbleForm_ptr (p : Ptr) (m : Nibble) (n n' : BitVec 2) (s : State) :
    ∀ i ∈ [Instr.mmov p m n, .bmov p n n'], NibbleForm i (ptrObj p) s := by
  simp only [List.forall_mem_cons, List.not_mem_nil, false_implies, implies_true, and_true]
  exact ⟨.of_read _ rfl, .of_read _ rfl⟩

/-- Settles O25: the skeleton stops where its one address does not answer, with each operand class. -/
theorem dataAccessStops : Obligations.DataAccessStops :=
  ⟨fun o s h i hi => (nibbleForm_sfr o s i hi).stops h,
    fun o b n k s h i hi => (nibbleForm_cur o b n k s i hi).stops h,
    fun o s h i hi => (nibbleForm_dir o s i hi).stops h,
    fun p m n n' s h i hi => (nibbleForm_ptr p m n n' s i hi).stops h⟩

/-- Settles O26: the skeleton completes with its free values at a prohibited address, with each operand class. -/
theorem prohibitedPostIncrement : Obligations.ProhibitedPostIncrement :=
  ⟨fun o s inv h i hi => (nibbleForm_sfr o s i hi).scrambles inv h,
    fun o b n k s inv h i hi => (nibbleForm_cur o b n k s i hi).scrambles inv h,
    fun o s inv h i hi => (nibbleForm_dir o s i hi).scrambles inv h⟩

/-! ### What every step keeps (R71, R75, R76, R503) -/

/-- What the state after any step owes to the state before it: program memory and the parameters stay, and the rest of the
invariant is handed on part by part. -/
structure StepKept (s t : State) : Prop where
  pm : t.pm = s.pm
  params : t.params = s.params
  dm : Mem.wf dmFill 0x100 0x1000 s.dm = true → Mem.wf dmFill 0x100 0x1000 t.dm = true
  xm : Mem.wf xmFill 0 0x10000 s.xm = true → Mem.wf xmFill 0 0x10000 t.xm = true
  requests : s.requests.Nodup → t.requests.Nodup

theorem StepKept.refl (s : State) : StepKept s s := ⟨rfl, rfl, id, id, id⟩

theorem StepKept.trans {s t u : State} (h : StepKept s t) (k : StepKept t u) : StepKept s u :=
  ⟨k.pm.trans h.pm, k.params.trans h.params, k.dm ∘ h.dm, k.xm ∘ h.xm, k.requests ∘ h.requests⟩

theorem StepKept.invariant {s t : State} (h : StepKept s t) (inv : Invariant s) : Invariant t where
  pm := h.pm ▸ inv.pm
  dm := h.dm inv.dm
  xm := h.xm inv.xm
  params := h.params ▸ inv.params
  requests := h.requests inv.requests

theorem DataKept.stepKept {s t : State} (h : DataKept s t) : StepKept s t where
  pm := h.core.pm
  params := h.core.params
  dm := h.dm
  xm := fun w => h.xm ▸ w
  requests := fun n => h.core.requests ▸ n

/-- The byte a transfer out of data memory writes lies inside external memory. -/
theorem byteStore_stepKept {o : Ind} {dst len : Word} {s t : State} (h : byteStore o dst len s = .next t) :
    StepKept s t := by
  obtain ⟨core, dm, b, xm⟩ := byteStore_kept h
  exact ⟨core.pm, core.params, fun w => dm ▸ w, fun w => xm ▸ Mem.wf_write w (Nat.zero_le _) dst.isLt,
    fun n => core.requests ▸ n⟩

theorem exec_stepKept {i : Instr} {s t : State} (h : exec i s = .next t) : StepKept s t := by
  cases exec_effect h with
  | data k => exact k.stepKept
  | call | ret | push | master | melody | halt => exact ⟨rfl, rfl, id, id, id⟩
  | store hi => obtain ⟨o, rfl⟩ | ⟨a, o, rfl⟩ := hi <;> exact byteStore_stepKept h

theorem takeInterrupt_stepKept {src : IrqSource} {s t : State} (h : takeInterrupt src s = .ok t) : StepKept s t := by
  obtain ⟨-, _, _, _, hsub, rfl⟩ := takeInterrupt_ok h
  exact ⟨rfl, rfl, id, id, fun n => n.sublist hsub⟩

theorem haltedBoundary_stepKept (s : State) : StepKept s (haltedBoundary s) := by
  unfold haltedBoundary
  split <;> exact ⟨rfl, rfl, id, id, id⟩

/-- A source asks at most once: a request that already stands is not entered again (R503). -/
theorem applyInput_requests_nodup {s : State} (i : Input) (h : s.requests.Nodup) : (applyInput i s).requests.Nodup := by
  cases i with
  | request n =>
    simp only [applyInput]
    split
    · exact h
    · rename_i hn
      exact List.nodup_cons.2 ⟨by simpa using hn, h⟩
  | withdraw n => exact h.filter _
  | quiet | device | external | reset => exact h

theorem applyInput_stepKept (i : Input) (s : State) : StepKept s (applyInput i s) where
  pm := by cases i <;> rfl
  params := by cases i <;> rfl
  dm := by
    cases i with
    | reset draw => exact drawRam_wf draw.ram
    | quiet | request | withdraw | device | external => exact id
  xm := by
    cases i with
    | external a b => exact fun w => Mem.wf_write w (Nat.zero_le _) a.isLt
    | quiet | request | withdraw | device | reset => exact id
  requests := applyInput_requests_nodup i

theorem coreActs_stepKept {s u : State} (h : CoreActs s u) : StepKept s u := by
  obtain ⟨-, rfl⟩ | ⟨rest, -, rfl⟩ := h
  · exact .refl _
  · exact ⟨rfl, rfl, id, id, id⟩

/-- Whatever a step is, an event of the outside, an interrupt entry, a halted boundary or an instruction. -/
theorem step_kept {s t : State} (h : step s = .next t) : StepKept s t := by
  obtain ⟨i, rest, -, -, rfl⟩ | ⟨u, acts, core⟩ := step_next h
  · exact StepKept.trans (t := { s with inputs := rest }) ⟨rfl, rfl, id, id, id⟩ (applyInput_stepKept i _)
  · refine (coreActs_stepKept acts).trans ?_
    obtain ⟨src, -, hsrc⟩ | ⟨-, -, rfl⟩ | ⟨i, -, -, -, hexec⟩ := core
    · exact takeInterrupt_stepKept hsrc
    · exact haltedBoundary_stepKept u
    · exact exec_stepKept hexec

/-- Settles O56: each part of the invariant is kept by each kind of step. -/
theorem invariantKept : Obligations.InvariantKept :=
  fun _ _ inv h => (step_kept h).invariant inv

/-- Settles O58: program memory and the parameters are two of the parts a step keeps, resets included. -/
theorem programMemoryKept : Obligations.ProgramMemoryKept :=
  fun _ _ h => ⟨(step_kept h).pm, (step_kept h).params⟩

end Sys2Proof.Machine
end

section
/-! SUPPORT. The formats of 30_encoding.md: the fields of each, one equation of the decoder for each (R141), and what each
encoder writes taken apart and decoded. -/

namespace Sys2Proof.Machine

/-! ### Fields and coded operands (R124, R139) -/

theorem bits_lt (w : Word) (lo len : Nat) : bits w lo len < 2 ^ len := Nat.mod_lt _ (Nat.two_pow_pos len)

@[simp] theorem field_toNat (w : Word) (lo len : Nat) : (field w lo len).toNat = bits w lo len := by
  rw [field, BitVec.toNat_ofNat, Nat.mod_eq_of_lt (bits_lt w lo len)]

theorem field_eq {w : Word} {lo len : Nat} {v : BitVec len} (h : bits w lo len = v.toNat) : field w lo len = v :=
  BitVec.eq_of_toNat_eq ((field_toNat w lo len).trans h)

theorem ptrCode_lt (p : Ptr) : p.code < 4 := by
  obtain ⟨_ | _, _ | _⟩ := p <;> decide

@[simp] theorem ptrOf_code (p : Ptr) : ptrOf p.code = p := by
  obtain ⟨_ | _, _ | _⟩ := p <;> rfl

theorem ptrCode_ptrOf {mm : Nat} (h : mm < 4) : (ptrOf mm).code = mm := by
  interval_cases mm <;> rfl

theorem modeBits_toNat (p : Ptr) : (modeBits p).toNat = p.code := by
  obtain ⟨_ | _, _ | _⟩ := p <;> rfl

theorem postCode_lt (b : Bool) : postCode b < 2 := by
  cases b <;> decide

@[simp] theorem postCode_beq_one (b : Bool) : (postCode b == 1) = b := by
  cases b <;> rfl

theorem postCode_of_bit {n : Nat} (h : n < 2) : postCode (n == 1) = n := by
  interval_cases n <;> rfl

theorem ofBool_toNat (b : Bool) : (BitVec.ofBool b).toNat = postCode b := by
  cases b <;> rfl

theorem baseCode_lt (n : Base) : n.code < 8 := Nat.mod_lt _ (by decide)

@[simp] theorem baseOf_code (n : Base) : baseOf n.code = n := by
  cases n <;> rfl

theorem baseCode_baseOf {nnn : Nat} (h : nnn < 8) : (baseOf nnn).code = nnn := by
  interval_cases nnn <;> rfl

/-! ### The indirect operand that the fields of a word name (R124) -/

/-- The operand `mm`, `p` of formats IND and X16, where `p` is bit 3. -/
def indOf (w : Word) : Ind := ⟨ptrOf (bits w 4 2), bits w 3 1 == 1⟩

/-- The operand `p`, `mm` of format INDI, where `p` is bit 8. -/
def indiOf (w : Word) : Ind := ⟨ptrOf (bits w 4 2), bits w 8 1 == 1⟩

theorem indOf_code (w : Word) : (indOf w).ptr.code = bits w 4 2 := ptrCode_ptrOf (bits_lt w 4 2)

theorem indOf_post (w : Word) : postCode (indOf w).post = bits w 3 1 := postCode_of_bit (bits_lt w 3 1)

theorem indiOf_code (w : Word) : (indiOf w).ptr.code = bits w 4 2 := ptrCode_ptrOf (bits_lt w 4 2)

theorem indiOf_post (w : Word) : postCode (indiOf w).post = bits w 8 1 := postCode_of_bit (bits_lt w 8 1)

theorem indOf_eq {w : Word} {o : Ind} (hm : bits w 4 2 = o.ptr.code) (hp : bits w 3 1 = postCode o.post) :
    indOf w = o := by
  rw [indOf, hm, hp, ptrOf_code, postCode_beq_one]

theorem indiOf_eq {w : Word} {o : Ind} (hm : bits w 4 2 = o.ptr.code) (hp : bits w 8 1 = postCode o.post) :
    indiOf w = o := by
  rw [indiOf, hm, hp, ptrOf_code, postCode_beq_one]

/-! ### The decoder by format: one equation for each (R141) -/

section
variable {w : Word} (x : Word)

theorem decodeFirst_j8 (h : bits w 12 4 = 1) :
    decodeFirst w x = decodeJ (bits w 11 1) (.cur (field w 0 8)) (baseOf (bits w 8 3)) := by
  simp only [decodeFirst, h]

theorem decodeFirst_sfr (h : bits w 12 4 = 2) : decodeFirst w x = decodeOp8 (bits w 8 4) (.sfr (field w 0 8)) := by
  simp only [decodeFirst, h]

theorem decodeFirst_cur (h : bits w 12 4 = 3) : decodeFirst w x = decodeOp8 (bits w 8 4) (.cur (field w 0 8)) := by
  simp only [decodeFirst, h]

theorem decodeFirst_imm8 (h : 4 ≤ bits w 12 4) (h' : bits w 12 4 ≤ 11) :
    decodeFirst w x = decodeImm8 (bits w 12 4) (.cur (field w 0 8)) (field w 8 4) := by
  unfold decodeFirst
  split
  case h_9 => rfl
  all_goals omega

theorem decodeFirst_low (h : bits w 12 4 = 0) : decodeFirst w x = decodeLow w x := by
  simp only [decodeFirst, h]

theorem decodeFirst_br8 (h : bits w 12 4 = 0) (h11 : bits w 11 1 = 1) :
    decodeFirst w x
      = decodeBr8 (bits w 9 2) (bits w 7 1) (BitVec.ofNat 8 (bits w 8 1 * 128 + bits w 0 7)) := by
  rw [decodeFirst_low x h, decodeLow, if_pos h11]

theorem decodeFirst_low00 (h : bits w 11 5 = 0) (h6 : bits w 6 2 = 0) : decodeFirst w x = decodeLow00 w x := by
  have h12 : bits w 12 4 = 0 := by unfold bits at *; omega
  have h11 : bits w 11 1 = 0 := by unfold bits at *; omega
  simp only [decodeFirst_low x h12, decodeLow, h11, h6, Nat.zero_ne_one, if_false]

theorem decodeFirst_low11 (h : bits w 11 5 = 0) (h6 : bits w 6 2 = 3) : decodeFirst w x = decodeLow11 w x := by
  have h12 : bits w 12 4 = 0 := by unfold bits at *; omega
  have h11 : bits w 11 1 = 0 := by unfold bits at *; omega
  simp only [decodeFirst_low x h12, decodeLow, h11, h6, Nat.zero_ne_one, if_false]

theorem decodeFirst_indi (h : bits w 11 5 = 0) (h6 : bits w 6 2 = 1 ∨ bits w 6 2 = 2) :
    decodeFirst w x = decodeIndi (bits w 6 2) (bits w 9 2) (.ind (indiOf w)) (field w 0 4) := by
  have h12 : bits w 12 4 = 0 := by unfold bits at *; omega
  have h11 : bits w 11 1 = 0 := by unfold bits at *; omega
  obtain h6 | h6 := h6 <;>
    simp only [decodeFirst_low x h12, decodeLow, h11, h6, Nat.zero_ne_one, if_false, indiOf]

theorem decodeFirst_ind (h : bits w 11 5 = 0) (h6 : bits w 6 2 = 0) (h8 : 3 ≤ bits w 8 3) (h8' : bits w 8 3 ≤ 5) :
    decodeFirst w x = decodeInd (bits w 8 3) (bits w 0 3) (indOf w) x := by
  rw [decodeFirst_low00 x h h6, decodeLow00]
  split
  case h_6 => rfl
  all_goals omega

theorem decodeFirst_indJ (h : bits w 11 5 = 0) (h6 : bits w 6 2 = 0) (h9 : bits w 9 2 = 3) :
    decodeFirst w x = decodeJ (bits w 3 1) (.ind (indiOf w)) (baseOf (bits w 0 3)) := by
  rw [decodeFirst_low00 x h h6, decodeLow00, indiOf]
  have h8 : bits w 8 3 = 6 + bits w 8 1 := by unfold bits at *; omega
  obtain hp | hp : bits w 8 1 = 0 ∨ bits w 8 1 = 1 := by unfold bits; omega
  all_goals simp only [h8, hp]; rfl

theorem decodeFirst_x16 (h : bits w 6 10 = 0b0000001111) :
    decodeFirst w x = decodeX16 (bits w 0 3) (indOf w) x := by
  have h11 : bits w 11 5 = 0 := by unfold bits at *; omega
  have h6 : bits w 6 2 = 3 := by unfold bits at *; omega
  have h8 : bits w 8 3 = 3 := by unfold bits at *; omega
  simp only [decodeFirst_low11 x h11 h6, decodeLow11, h8, indOf]

theorem decodeFirst_mmov (h : bits w 11 5 = 0) (h6 : bits w 6 2 = 3) (h8 : bits w 8 1 = 0) :
    decodeFirst w x = some (.mmov (ptrOf (bits w 4 2)) (field w 0 4) (field w 9 2)) := by
  have h83 : bits w 8 3 = 0 ∨ bits w 8 3 = 2 ∨ bits w 8 3 = 4 ∨ bits w 8 3 = 6 := by unfold bits at *; omega
  obtain h83 | h83 | h83 | h83 := h83 <;> simp only [decodeFirst_low11 x h h6, decodeLow11, h83]

theorem decodeFirst_ai (h : bits w 4 12 = 0x01C) : decodeFirst w x = some (.movAImm (field w 0 4)) := by
  have h11 : bits w 11 5 = 0 := by unfold bits at *; omega
  have h6 : bits w 6 2 = 3 := by unfold bits at *; omega
  have h8 : bits w 8 3 = 1 := by unfold bits at *; omega
  have h4 : bits w 4 2 = 0 := by unfold bits at *; omega
  simp only [decodeFirst_low11 x h11 h6, decodeLow11, h8, h4, if_true]

theorem decodeFirst_ri (h : bits w 10 6 = 0) (h6 : bits w 6 2 = 0)
    (h8 : bits w 8 2 = 0 ∧ bits w 5 1 = 1 ∨ bits w 8 2 = 1 ∨ bits w 8 2 = 2) :
    decodeFirst w x = decodeRi (bits w 8 2) (bits w 4 2) (field w 0 4) := by
  have h11 : bits w 11 5 = 0 := by unfold bits at *; omega
  have h83 : bits w 8 3 = bits w 8 2 := by unfold bits at *; omega
  rw [decodeFirst_low00 x h11 h6, decodeLow00, h83]
  obtain ⟨h8, h5⟩ | h8 | h8 := h8
  · simp only [h8, h5, if_true]
  · simp only [h8]
  · simp only [h8]

theorem decodeFirst_misc (h : bits w 5 11 = 0) : decodeFirst w x = decodeMisc (bits w 0 5) x := by
  have h11 : bits w 11 5 = 0 := by unfold bits at *; omega
  have h6 : bits w 6 2 = 0 := by unfold bits at *; omega
  have h8 : bits w 8 3 = 0 := by unfold bits at *; omega
  have h5 : bits w 5 1 = 0 := by unfold bits at *; omega
  simp only [decodeFirst_low00 x h11 h6, decodeLow00, h8, h5, Nat.zero_ne_one, if_false]

end

/-! ### Words and their fields: each format taken apart and put together again (R126 to R138) -/

theorem encInd_fields {ggg ooo : Nat} (hg : ggg < 8) (ho : ooo < 8) (o : Ind) :
    bits (encInd ggg ooo o) 11 5 = 0 ∧ bits (encInd ggg ooo o) 6 2 = 0 ∧ bits (encInd ggg ooo o) 8 3 = ggg
      ∧ bits (encInd ggg ooo o) 0 3 = ooo ∧ indOf (encInd ggg ooo o) = o := by
  have hm := ptrCode_lt o.ptr
  have hp := postCode_lt o.post
  refine ⟨?_, ?_, ?_, ?_, indOf_eq ?_ ?_⟩ <;> simp only [bits, encInd, BitVec.toNat_ofNat] <;> omega

theorem encInd_of_fields {w : Word} (h : bits w 11 5 = 0) (h6 : bits w 6 2 = 0) :
    encInd (bits w 8 3) (bits w 0 3) (indOf w) = w := by
  apply BitVec.eq_of_toNat_eq
  simp only [encInd, indOf_code, indOf_post, BitVec.toNat_ofNat]
  simp only [bits] at *
  omega

/-- Format INDI, its operand read from bit 8. -/
theorem encImm_ind_fields {xx yy : Nat} (hx : xx < 4) (hy : yy < 4) (tttt : Nat) (i : Nibble) (o : Ind) :
    let w := encImm tttt xx yy i (.ind o)
    bits w 11 5 = 0 ∧ bits w 6 2 = yy ∧ bits w 9 2 = xx ∧ field w 0 4 = i ∧ indiOf w = o := by
  have hm := ptrCode_lt o.ptr
  have hp := postCode_lt o.post
  refine ⟨?_, ?_, ?_, field_eq ?_, indiOf_eq ?_ ?_⟩ <;> simp only [bits, encImm, BitVec.toNat_ofNat] <;> omega

theorem encImm_ind_of_fields {w : Word} (tttt : Nat) (h : bits w 11 5 = 0) :
    encImm tttt (bits w 9 2) (bits w 6 2) (field w 0 4) (.ind (indiOf w)) = w := by
  apply BitVec.eq_of_toNat_eq
  simp only [encImm, indiOf_code, indiOf_post, field_toNat, BitVec.toNat_ofNat]
  simp only [bits] at *
  omega

theorem encImm_cur_fields {tttt : Nat} (ht : tttt < 16) (xx yy : Nat) (i : Nibble) (r : BitVec 8) :
    let w := encImm tttt xx yy i (.cur r)
    bits w 12 4 = tttt ∧ field w 8 4 = i ∧ field w 0 8 = r := by
  refine ⟨?_, field_eq ?_, field_eq ?_⟩ <;> simp only [bits, encImm, BitVec.toNat_ofNat] <;> omega

theorem encImm_cur_of_fields (w : Word) (xx yy : Nat) :
    encImm (bits w 12 4) xx yy (field w 8 4) (.cur (field w 0 8)) = w := by
  apply BitVec.eq_of_toNat_eq
  simp only [encImm, field_toNat, BitVec.toNat_ofNat]
  simp only [bits] at *
  omega

theorem encOp8_sfr_fields {oooo : Nat} (ho : oooo < 16) (ggg ooo : Nat) (r : BitVec 8) :
    let w := encOp8 oooo ggg ooo (.sfr r)
    bits w 12 4 = 2 ∧ bits w 8 4 = oooo ∧ field w 0 8 = r := by
  refine ⟨?_, ?_, field_eq ?_⟩ <;> simp only [bits, encOp8, BitVec.toNat_ofNat] <;> omega

theorem encOp8_cur_fields {oooo : Nat} (ho : oooo < 16) (ggg ooo : Nat) (r : BitVec 8) :
    let w := encOp8 oooo ggg ooo (.cur r)
    bits w 12 4 = 3 ∧ bits w 8 4 = oooo ∧ field w 0 8 = r := by
  refine ⟨?_, ?_, field_eq ?_⟩ <;> simp only [bits, encOp8, BitVec.toNat_ofNat] <;> omega

theorem encOp8_sfr_of_fields {w : Word} (ggg ooo : Nat) (h : bits w 12 4 = 2) :
    encOp8 (bits w 8 4) ggg ooo (.sfr (field w 0 8)) = w := by
  apply BitVec.eq_of_toNat_eq
  simp only [encOp8, field_toNat, BitVec.toNat_ofNat]
  simp only [bits] at *
  omega

theorem encOp8_cur_of_fields {w : Word} (ggg ooo : Nat) (h : bits w 12 4 = 3) :
    encOp8 (bits w 8 4) ggg ooo (.cur (field w 0 8)) = w := by
  apply BitVec.eq_of_toNat_eq
  simp only [encOp8, field_toNat, BitVec.toNat_ofNat]
  simp only [bits] at *
  omega

theorem encJ_cur_fields {b : Nat} (hb : b < 2) (n : Base) (r : BitVec 8) :
    let w := encJ b n (.cur r)
    bits w 12 4 = 1 ∧ bits w 11 1 = b ∧ bits w 8 3 = n.code ∧ field w 0 8 = r := by
  have hn := baseCode_lt n
  refine ⟨?_, ?_, ?_, field_eq ?_⟩ <;> simp only [bits, encJ, BitVec.toNat_ofNat] <;> omega

theorem encJ_cur_of_fields {w : Word} (h : bits w 12 4 = 1) :
    encJ (bits w 11 1) (baseOf (bits w 8 3)) (.cur (field w 0 8)) = w := by
  apply BitVec.eq_of_toNat_eq
  simp only [encJ, baseCode_baseOf (bits_lt w 8 3), field_toNat, BitVec.toNat_ofNat]
  simp only [bits] at *
  omega

theorem encJ_ind_fields {b : Nat} (hb : b < 2) (n : Base) (o : Ind) :
    let w := encJ b n (.ind o)
    bits w 11 5 = 0 ∧ bits w 6 2 = 0 ∧ bits w 9 2 = 3 ∧ bits w 3 1 = b ∧ bits w 0 3 = n.code ∧ indiOf w = o := by
  have hn := baseCode_lt n
  have hm := ptrCode_lt o.ptr
  have hp := postCode_lt o.post
  refine ⟨?_, ?_, ?_, ?_, ?_, indiOf_eq ?_ ?_⟩ <;> simp only [bits, encJ, BitVec.toNat_ofNat] <;> omega

theorem encJ_ind_of_fields {w : Word} (h : bits w 11 5 = 0) (h6 : bits w 6 2 = 0) (h9 : bits w 9 2 = 3) :
    encJ (bits w 3 1) (baseOf (bits w 0 3)) (.ind (indiOf w)) = w := by
  apply BitVec.eq_of_toNat_eq
  simp only [encJ, baseCode_baseOf (bits_lt w 0 3), indiOf_code, indiOf_post, BitVec.toNat_ofNat]
  simp only [bits] at *
  omega

/-- The displacement of format BR8: bit 8 of the word above its bits 6..0. -/
def dispOf (w : Word) : BitVec 8 := BitVec.ofNat 8 (bits w 8 1 * 128 + bits w 0 7)

theorem dispOf_toNat (w : Word) : (dispOf w).toNat = bits w 8 1 * 128 + bits w 0 7 := by
  rw [dispOf, BitVec.toNat_ofNat]
  unfold bits
  omega

theorem encBr8_fields {cc s : Nat} (hc : cc < 4) (hs : s < 2) (d : BitVec 8) :
    let w := encBr8 cc s d
    bits w 12 4 = 0 ∧ bits w 11 1 = 1 ∧ bits w 9 2 = cc ∧ bits w 7 1 = s ∧ dispOf w = d := by
  refine ⟨?_, ?_, ?_, ?_, BitVec.eq_of_toNat_eq ((dispOf_toNat _).trans ?_)⟩ <;>
    simp only [bits, encBr8, BitVec.toNat_ofNat] <;> omega

theorem encBr8_of_fields {w : Word} (h : bits w 12 4 = 0) (h11 : bits w 11 1 = 1) :
    encBr8 (bits w 9 2) (bits w 7 1) (dispOf w) = w := by
  apply BitVec.eq_of_toNat_eq
  simp only [encBr8, dispOf_toNat, BitVec.toNat_ofNat]
  simp only [bits] at *
  omega

theorem encMmov_fields (p : Ptr) (m : Nibble) (n : BitVec 2) :
    let w := encMmov p m n
    bits w 11 5 = 0 ∧ bits w 6 2 = 3 ∧ bits w 8 1 = 0 ∧ bits w 4 2 = p.code ∧ field w 0 4 = m ∧ field w 9 2 = n := by
  have hp := ptrCode_lt p
  refine ⟨?_, ?_, ?_, ?_, field_eq ?_, field_eq ?_⟩ <;> simp only [bits, encMmov, BitVec.toNat_ofNat] <;> omega

theorem encMmov_of_fields {w : Word} (h : bits w 11 5 = 0) (h6 : bits w 6 2 = 3) (h8 : bits w 8 1 = 0) :
    encMmov (ptrOf (bits w 4 2)) (field w 0 4) (field w 9 2) = w := by
  apply BitVec.eq_of_toNat_eq
  simp only [encMmov, ptrCode_ptrOf (bits_lt w 4 2), field_toNat, BitVec.toNat_ofNat]
  simp only [bits] at *
  omega

theorem encX16_fields {d : Nat} (hd : d < 2) (o : Ind) :
    bits (encX16 d o) 6 10 = 0b0000001111 ∧ bits (encX16 d o) 0 3 = d ∧ indOf (encX16 d o) = o := by
  have hm := ptrCode_lt o.ptr
  have hp := postCode_lt o.post
  refine ⟨?_, ?_, indOf_eq ?_ ?_⟩ <;> simp only [bits, encX16, BitVec.toNat_ofNat] <;> omega

theorem encX16_of_fields {w : Word} (h : bits w 6 10 = 0b0000001111) : encX16 (bits w 0 3) (indOf w) = w := by
  apply BitVec.eq_of_toNat_eq
  simp only [encX16, indOf_code, indOf_post, BitVec.toNat_ofNat]
  simp only [bits] at *
  omega

/-! ### Decoding what the encoder writes, format by format -/

theorem decodeFirst_encInd {ggg ooo : Nat} (hg : 3 ≤ ggg ∧ ggg ≤ 5) (ho : ooo < 8) (o : Ind) (x : Word) :
    decodeFirst (encInd ggg ooo o) x = decodeInd ggg ooo o x := by
  obtain ⟨h11, h6, h8, h0, hi⟩ := encInd_fields (by omega : ggg < 8) ho o
  rw [decodeFirst_ind x h11 h6 (by omega) (by omega), h8, h0, hi]

theorem decodeFirst_encOp8 {mk : SfrObj → Instr} {oooo ggg ooo : Nat} (h : oooo < 16 ∧ (3 ≤ ggg ∧ ggg ≤ 5) ∧ ooo < 8)
    (h8 : ∀ o, decodeOp8 oooo o = some (mk o)) (hi : ∀ o x, decodeInd ggg ooo o x = some (mk (.ind o)))
    (o : SfrObj) (x : Word) : decodeFirst (encOp8 oooo ggg ooo o) x = some (mk o) := by
  obtain ⟨ho, hg, hoo⟩ := h
  cases o with
  | sfr r =>
    obtain ⟨h12, h84, hr⟩ := encOp8_sfr_fields ho ggg ooo r
    rw [decodeFirst_sfr x h12, h84, hr, h8]
  | cur r =>
    obtain ⟨h12, h84, hr⟩ := encOp8_cur_fields ho ggg ooo r
    rw [decodeFirst_cur x h12, h84, hr, h8]
  | ind o => exact (decodeFirst_encInd hg hoo o x).trans (hi o x)

theorem decodeFirst_encImm {mk : CurObj → Nibble → Instr} {tttt xx yy : Nat}
    (h : (4 ≤ tttt ∧ tttt ≤ 11) ∧ xx < 4 ∧ (yy = 1 ∨ yy = 2)) (h8 : ∀ o i, decodeImm8 tttt o i = some (mk o i))
    (hi : ∀ o i, decodeIndi yy xx o i = some (mk o i)) (o : CurObj) (i : Nibble) (x : Word) :
    decodeFirst (encImm tttt xx yy i o) x = some (mk o i) := by
  obtain ⟨ht, hx, hy⟩ := h
  cases o with
  | cur r =>
    obtain ⟨h12, h84, hr⟩ := encImm_cur_fields (by omega : tttt < 16) xx yy i r
    rw [decodeFirst_imm8 x (by omega) (by omega), h12, h84, hr, h8]
  | ind o =>
    obtain ⟨h11, h6, h9, h0, ho⟩ := encImm_ind_fields hx (by omega : yy < 4) tttt i o
    rw [decodeFirst_indi x h11 (by omega), h6, h9, h0, ho, hi]

theorem decodeFirst_encJ {mk : CurObj → Base → Instr} {b : Nat} (hb : b < 2)
    (hj : ∀ o n, decodeJ b o n = some (mk o n)) (o : CurObj) (n : Base) (x : Word) :
    decodeFirst (encJ b n o) x = some (mk o n) := by
  cases o with
  | cur r =>
    obtain ⟨h12, h11, h8, hr⟩ := encJ_cur_fields hb n r
    rw [decodeFirst_j8 x h12, h11, h8, hr, baseOf_code, hj]
  | ind o =>
    obtain ⟨h11, h6, h9, h3, h0, ho⟩ := encJ_ind_fields hb n o
    rw [decodeFirst_indJ x h11 h6 h9, h3, h0, ho, baseOf_code, hj]

theorem decodeFirst_encBr8 {cc s : Nat} (hc : cc < 4) (hs : s < 2) (d : BitVec 8) (x : Word) :
    decodeFirst (encBr8 cc s d) x = decodeBr8 cc s d := by
  obtain ⟨h12, h11, h9, h7, hd⟩ := encBr8_fields hc hs d
  rw [decodeFirst_br8 x h12 h11, h9, h7, ← dispOf, hd]

theorem decodeFirst_encMmov (p : Ptr) (m : Nibble) (n : BitVec 2) (x : Word) :
    decodeFirst (encMmov p m n) x = some (.mmov p m n) := by
  obtain ⟨h11, h6, h8, h4, hm, hn⟩ := encMmov_fields p m n
  rw [decodeFirst_mmov x h11 h6 h8, h4, hm, hn, ptrOf_code]

theorem decodeFirst_encX16 {d : Nat} (hd : d < 2) (o : Ind) (x : Word) :
    decodeFirst (encX16 d o) x = decodeX16 d o x := by
  obtain ⟨h6, h0, ho⟩ := encX16_fields hd o
  rw [decodeFirst_x16 x h6, h0, ho]

/-- Formats DIR and CAD12: the high nibble chooses the instruction, the rest is the address (R128, R136). -/
theorem addr12_fields {tttt : Nat} (ht : tttt < 16) (a : BitVec 12) :
    let w : Word := BitVec.ofNat 16 (tttt * 4096 + a.toNat)
    bits w 12 4 = tttt ∧ field w 0 12 = a := by
  refine ⟨?_, field_eq ?_⟩ <;> simp only [bits, BitVec.toNat_ofNat] <;> omega

theorem addr12_of_fields (w : Word) : BitVec.ofNat 16 (bits w 12 4 * 4096 + (field w 0 12).toNat) = w := by
  apply BitVec.eq_of_toNat_eq
  simp only [field_toNat, BitVec.toNat_ofNat, bits]
  omega

theorem decodeFirst_addr12 {tttt : Nat} (ht : 12 ≤ tttt ∧ tttt < 16) (a : BitVec 12) (x : Word) :
    decodeFirst (BitVec.ofNat 16 (tttt * 4096 + a.toNat)) x
      = match tttt with
        | 12 => some (.movObjA (.direct a))
        | 13 => some (.movAObj (.direct a))
        | 14 => some (.jmp a)
        | _ => some (.cal a) := by
  obtain ⟨h12, ha⟩ := addr12_fields ht.2 a
  obtain ⟨h, h'⟩ := ht
  interval_cases tttt <;> simp only [decodeFirst, h12, ha]

end Sys2Proof.Machine
end

section
/-! SUPPORT. Decoding and encoding are inverse to each other, with the rest of the statements about the words of
instructions: which first words are unassigned (R142) and which have a second word (R121). -/

namespace Sys2Proof.Machine

/-! ### From every instruction to its words and back (R141, R143) -/

theorem reg4_word_fields (r : Reg4) :
    r.word % 16 = 0 ∧ r.word < 0x300 ∧ r.word / 64 % 4 = 0 ∧ (r.word / 256 = 0 → r.word / 32 % 2 = 1) := by
  cases r <;> decide

theorem decodeRi_word (r : Reg4) (i : Nibble) : decodeRi (r.word / 256) (r.word / 16 % 4) i = some (.movReg r i) := by
  cases r <;> rfl

theorem decodeFirst_movReg (r : Reg4) (i : Nibble) (x : Word) :
    decodeFirst (BitVec.ofNat 16 (r.word + i.toNat)) x = some (.movReg r i) := by
  obtain ⟨h16, hlt, h6, h5⟩ := reg4_word_fields r
  have hw : (BitVec.ofNat 16 (r.word + i.toNat)).toNat = r.word + i.toNat := by
    rw [BitVec.toNat_ofNat]; omega
  have h8 : bits (BitVec.ofNat 16 (r.word + i.toNat)) 8 2 = r.word / 256 := by unfold bits; omega
  have h4 : bits (BitVec.ofNat 16 (r.word + i.toNat)) 4 2 = r.word / 16 % 4 := by unfold bits; omega
  have hi : field (BitVec.ofNat 16 (r.word + i.toNat)) 0 4 = i := field_eq (by unfold bits; omega)
  rw [decodeFirst_ri x, h8, h4, hi, decodeRi_word]
  all_goals (unfold bits; omega)

theorem decodeFirst_movAImm (i : Nibble) (x : Word) :
    decodeFirst (BitVec.ofNat 16 (0x01C0 + i.toNat)) x = some (.movAImm i) := by
  have hw : (BitVec.ofNat 16 (0x01C0 + i.toNat)).toNat = 0x01C0 + i.toNat := by
    rw [BitVec.toNat_ofNat]; omega
  have hi : field (BitVec.ofNat 16 (0x01C0 + i.toNat)) 0 4 = i := field_eq (by unfold bits; omega)
  rw [decodeFirst_ai x (by unfold bits; omega), hi]

/-- The core that has every instruction decodes the words of each to its primary instruction, whatever follows a one-word
instruction. -/
theorem decodeFirst_encode_words (i : Instr) (x : Word) :
    decodeFirst ((encode i).headD 0) ((encode i).tail.headD x) = some i.primary := by
  cases i with
  | movObjA o =>
    cases o with
    | direct a => exact decodeFirst_addr12 (tttt := 12) (by decide) a x
    | ind o => exact decodeFirst_encInd (by decide) (by decide) o x
  | movAObj o =>
    cases o with
    | direct a => exact decodeFirst_addr12 (tttt := 13) (by decide) a x
    | ind o => exact decodeFirst_encInd (by decide) (by decide) o x
  | jmp a => exact decodeFirst_addr12 (tttt := 14) (by decide) a x
  | cal a => exact decodeFirst_addr12 (tttt := 15) (by decide) a x
  | xch o | rol o | ror o | inc o | dec o | addA o | adc o | adcd o | subA o | sbc o | sbcd o | cmpA o | andA o | orA o
  | xorA o | mtstA o => exact decodeFirst_encOp8 (by decide) (fun _ => rfl) (fun _ _ => rfl) o x
  | movObjImm o i | addImm o i | subImm o i | cmpImm o i | andImm o i | orImm o i | xorImm o i | mclr o i | mset o i
  | mnot o i | mtstImm o i => exact decodeFirst_encImm (by decide) (fun _ _ => rfl) (fun _ _ => rfl) o i x
  | bclr o n => exact decodeFirst_encImm (by decide) (fun _ _ => rfl) (fun _ _ => rfl) o (clearCode n) x
  | bset o n | bnot o n | btst o n =>
    exact decodeFirst_encImm (by decide) (fun _ _ => rfl) (fun _ _ => rfl) o (bitCode n) x
  | adcj o n | sbcj o n => exact decodeFirst_encJ (by decide) (fun _ _ => rfl) o n x
  | mmov p m n => exact decodeFirst_encMmov p m n x
  | bmov p n1 n2 => exact decodeFirst_encMmov p (bitCode n1) n2 x
  | movhbRA o | movlbRA o | movxbLoadRA o | movxbStoreRA o => exact decodeFirst_encInd (by decide) (by decide) o x
  | movhbAbs o a | movlbAbs o a => exact decodeFirst_encInd (by decide) (by decide) o a
  | movxbLoadAbs o a | movxbStoreAbs a o => exact decodeFirst_encX16 (by decide) o a
  | sjmp d | bc d | blt d | bnc d | bge d | bz d | beq d | bnz d | bne d | ble d | bgt d | bng d =>
    exact decodeFirst_encBr8 (by decide) (by decide) d x
  | movReg r i => exact decodeFirst_movReg r i x
  | movAImm i => exact decodeFirst_movAImm i x
  | pushHL | pushXY | popHL | popXY | fclrC | fclrZ | fclrG | fclrFlag | fsetC | fsetZ | fsetG | fsetFlag | jmpPcA
  | rt | rti | rtnmi | incbHL | incbXY | incwRA | halt | nop | ei | di => exact decodeFirst_misc x (by decide)
  | ljmp a => exact decodeFirst_misc (w := 0x0014) a (by decide)
  | lcal a => exact decodeFirst_misc (w := 0x0015) a (by decide)
  | msa a => exact decodeFirst_misc (w := 0x0016) a (by decide)

theorem decodeFirst_encode {i : Instr} {w : Word} {rest : List Word} (h : encode i = w :: rest) (x : Word) :
    decodeFirst w (rest.headD x) = some i.primary := by
  have key := decodeFirst_encode_words i x
  rwa [h] at key

theorem decode_eq_ok_iff {core : CoreKind} {w x : Word} {i : Instr} :
    decode core w x = .ok i ↔ decodeFirst w x = some i ∧ WellFormed core i = true := by
  unfold decode
  cases decodeFirst w x with
  | none => simp only [reduceCtorEq, false_and]
  | some j =>
    by_cases hj : WellFormed core j = true
    · simp only [hj, if_true, Except.ok.injEq, Option.some.injEq]
      exact ⟨fun h => ⟨h, h ▸ hj⟩, And.left⟩
    · simp only [hj, Bool.false_eq_true, if_false, reduceCtorEq, Option.some.injEq, false_iff, not_and]
      rintro rfl
      exact hj

/-- A second spelling is on a core exactly when its primary instruction is. -/
theorem wellFormed_primary (core : CoreKind) (i : Instr) : WellFormed core i.primary = WellFormed core i := by
  cases i <;> rfl

/-- Settles O1: the decoder that has every instruction, and then the core. -/
theorem decodeOfEncode : Obligations.DecodeOfEncode :=
  fun core i wf x _ _ h =>
    decode_eq_ok_iff.2 ⟨decodeFirst_encode h x, (wellFormed_primary core i).trans wf⟩

/-! ### Encoding what the decoder answers, format by format -/

theorem encode_of_decodeOp8 {oooo : Nat} {o : SfrObj} {i : Instr} (h : decodeOp8 oooo o = some i) :
    ∃ ggg ooo, encode i = [encOp8 oooo ggg ooo o] := by
  unfold decodeOp8 at h
  split at h <;> cases h <;> exact ⟨_, _, rfl⟩

theorem encode_of_decodeImm8 {tttt : Nat} {o : CurObj} {b : Nibble} {i : Instr} (h : decodeImm8 tttt o b = some i) :
    ∃ xx yy, encode i = [encImm tttt xx yy b o] := by
  unfold decodeImm8 at h
  split at h <;> cases h <;> exact ⟨_, _, rfl⟩

theorem encode_of_decodeIndi {yy xx : Nat} {o : CurObj} {b : Nibble} {i : Instr} (h : decodeIndi yy xx o b = some i) :
    ∃ tttt, encode i = [encImm tttt xx yy b o] := by
  unfold decodeIndi at h
  split at h <;> cases h <;> exact ⟨_, rfl⟩

theorem encode_of_decodeJ {b : Nat} {o : CurObj} {n : Base} {i : Instr} (h : decodeJ b o n = some i) :
    encode i = [encJ b n o] := by
  unfold decodeJ at h
  split at h <;> cases h <;> rfl

theorem encode_of_decodeBr8 {cc s : Nat} {d : BitVec 8} {i : Instr} (h : decodeBr8 cc s d = some i) :
    encode i = [encBr8 cc s d] := by
  unfold decodeBr8 at h
  split at h <;> cases h <;> rfl

theorem encode_of_decodeRi {gg rr : Nat} {b : Nibble} {i : Instr} (h : decodeRi gg rr b = some i) :
    encode i = [BitVec.ofNat 16 (gg * 256 + rr * 16 + b.toNat)] := by
  unfold decodeRi at h
  split at h <;> cases h <;> rfl

/-- The words from which `i` is decoded: its own, and the one after it when `i` has two. -/
def wordsRead (w x : Word) (i : Instr) : List Word := if i.words = 2 then [w, x] else [w]

theorem wordsRead_of_one {w x : Word} {i : Instr} (h : i.words = 1) : wordsRead w x i = [w] := by
  simp only [wordsRead, h, OfNat.one_ne_ofNat, if_false]

theorem encode_of_decodeInd {ggg ooo : Nat} {o : Ind} {x : Word} {i : Instr} (h : decodeInd ggg ooo o x = some i) :
    encode i = wordsRead (encInd ggg ooo o) x i := by
  unfold decodeInd at h
  split at h <;> cases h <;> rfl

theorem encode_of_decodeMisc {n : Nat} {x : Word} {i : Instr} (h : decodeMisc n x = some i) :
    encode i = wordsRead (BitVec.ofNat 16 n) x i := by
  unfold decodeMisc at h
  split at h <;> cases h <;> rfl

theorem encode_of_decodeX16 {low : Nat} {o : Ind} {x : Word} {i : Instr} (h : decodeX16 low o x = some i) :
    encode i = wordsRead (encX16 low o) x i := by
  unfold decodeX16 at h
  split at h <;> cases h <;> rfl

section
variable {w x : Word} {i : Instr}

theorem ri_of_fields (h : bits w 10 6 = 0) (h6 : bits w 6 2 = 0) :
    BitVec.ofNat 16 (bits w 8 2 * 256 + bits w 4 2 * 16 + (field w 0 4).toNat) = w := by
  apply BitVec.eq_of_toNat_eq
  simp only [field_toNat, BitVec.toNat_ofNat]
  unfold bits at *
  omega

theorem misc_of_fields (h : bits w 5 11 = 0) : BitVec.ofNat 16 (bits w 0 5) = w := by
  apply BitVec.eq_of_toNat_eq
  rw [BitVec.toNat_ofNat]
  unfold bits at *
  omega

theorem ai_of_fields (h : bits w 4 12 = 0x01C) : BitVec.ofNat 16 (0x01C0 + (field w 0 4).toNat) = w := by
  apply BitVec.eq_of_toNat_eq
  simp only [field_toNat, BitVec.toNat_ofNat]
  unfold bits at *
  omega

end

/-- Every first word has one of the formats of R141, each by the fields that tell it, or is in a block of R142 that no format
reaches. -/
inductive WordFormat (w : Word) : Prop where
  | j8 (h12 : bits w 12 4 = 1)
  | sfr (h12 : bits w 12 4 = 2)
  | cur (h12 : bits w 12 4 = 3)
  | imm8 (h12 : 4 ≤ bits w 12 4) (h12' : bits w 12 4 ≤ 11)
  | addr12 (h12 : bits w 12 4 = 12 ∨ bits w 12 4 = 13 ∨ bits w 12 4 = 14 ∨ bits w 12 4 = 15)
  | br8 (h12 : bits w 12 4 = 0) (h11 : bits w 11 1 = 1)
  | indi (h11 : bits w 11 5 = 0) (h6 : bits w 6 2 = 1 ∨ bits w 6 2 = 2)
  | ind (h11 : bits w 11 5 = 0) (h6 : bits w 6 2 = 0) (h8 : 3 ≤ bits w 8 3) (h8' : bits w 8 3 ≤ 5)
  | indJ (h11 : bits w 11 5 = 0) (h6 : bits w 6 2 = 0) (h9 : bits w 9 2 = 3)
  | ri (h10 : bits w 10 6 = 0) (h6 : bits w 6 2 = 0)
      (h8 : bits w 8 2 = 0 ∧ bits w 5 1 = 1 ∨ bits w 8 2 = 1 ∨ bits w 8 2 = 2)
  | misc (h5 : bits w 5 11 = 0)
  | mmov (h11 : bits w 11 5 = 0) (h6 : bits w 6 2 = 3) (h8 : bits w 8 1 = 0)
  | ai (h4 : bits w 4 12 = 0x01C)
  | x16 (h6 : bits w 6 10 = 0b0000001111)
  | unassigned (h11 : bits w 11 5 = 0) (h6 : bits w 6 2 = 3)
      (h8 : bits w 8 3 = 1 ∧ bits w 4 2 ≠ 0 ∨ bits w 8 3 = 5 ∨ bits w 8 3 = 7)

theorem wordFormat_low00 {w : Word} (h11 : bits w 11 5 = 0) (h6 : bits w 6 2 = 0) : WordFormat w := by
  obtain ⟨h10, h8⟩ | h5 | ⟨h8, h8'⟩ | h9 :
      (bits w 10 6 = 0 ∧ (bits w 8 2 = 0 ∧ bits w 5 1 = 1 ∨ bits w 8 2 = 1 ∨ bits w 8 2 = 2)) ∨ bits w 5 11 = 0
        ∨ (3 ≤ bits w 8 3 ∧ bits w 8 3 ≤ 5) ∨ bits w 9 2 = 3 := by
    unfold bits at *; omega
  exacts [.ri h10 h6 h8, .misc h5, .ind h11 h6 h8 h8', .indJ h11 h6 h9]

theorem wordFormat_low11 {w : Word} (h11 : bits w 11 5 = 0) (h6 : bits w 6 2 = 3) : WordFormat w := by
  obtain h8 | h4 | hx | h8 : bits w 8 1 = 0 ∨ bits w 4 12 = 0x01C ∨ bits w 6 10 = 0b0000001111
      ∨ (bits w 8 3 = 1 ∧ bits w 4 2 ≠ 0 ∨ bits w 8 3 = 5 ∨ bits w 8 3 = 7) := by
    unfold bits at *; omega
  exacts [.mmov h11 h6 h8, .ai h4, .x16 hx, .unassigned h11 h6 h8]

theorem wordFormat (w : Word) : WordFormat w := by
  have hlt : bits w 12 4 < 16 := bits_lt w 12 4
  obtain h12 | h12 | h12 | h12 | ⟨h12, h12'⟩ | h12 : bits w 12 4 = 0 ∨ bits w 12 4 = 1 ∨ bits w 12 4 = 2
      ∨ bits w 12 4 = 3 ∨ (4 ≤ bits w 12 4 ∧ bits w 12 4 ≤ 11)
      ∨ (bits w 12 4 = 12 ∨ bits w 12 4 = 13 ∨ bits w 12 4 = 14 ∨ bits w 12 4 = 15) := by omega
  · obtain h11 | ⟨h11, h6 | h6 | h6⟩ : bits w 11 1 = 1
        ∨ (bits w 11 5 = 0 ∧ (bits w 6 2 = 0 ∨ (bits w 6 2 = 1 ∨ bits w 6 2 = 2) ∨ bits w 6 2 = 3)) := by
      unfold bits at *; omega
    exacts [.br8 h12 h11, wordFormat_low00 h11 h6, .indi h11 h6, wordFormat_low11 h11 h6]
  exacts [.j8 h12, .sfr h12, .cur h12, .imm8 h12 h12', .addr12 h12]

theorem decodeFirst_unassigned {w : Word} (x : Word) (h11 : bits w 11 5 = 0) (h6 : bits w 6 2 = 3)
    (h8 : bits w 8 3 = 1 ∧ bits w 4 2 ≠ 0 ∨ bits w 8 3 = 5 ∨ bits w 8 3 = 7) : decodeFirst w x = none := by
  rw [decodeFirst_low11 x h11 h6, decodeLow11]
  obtain ⟨h8, h4⟩ | h8 | h8 := h8
  · simp only [h8, h4, if_false]
  · simp only [h8]
  · simp only [h8]

theorem encode_of_decodeFirst {w x : Word} {i : Instr} (h : decodeFirst w x = some i) : encode i = wordsRead w x i := by
  cases wordFormat w with
  | j8 h12 =>
    rw [decodeFirst_j8 x h12] at h
    rw [encode_of_decodeJ h, encJ_cur_of_fields h12, wordsRead_of_one (decodeJ_words h)]
  | sfr h12 =>
    rw [decodeFirst_sfr x h12] at h
    obtain ⟨ggg, ooo, henc⟩ := encode_of_decodeOp8 h
    rw [henc, encOp8_sfr_of_fields ggg ooo h12, wordsRead_of_one (decodeOp8_words h)]
  | cur h12 =>
    rw [decodeFirst_cur x h12] at h
    obtain ⟨ggg, ooo, henc⟩ := encode_of_decodeOp8 h
    rw [henc, encOp8_cur_of_fields ggg ooo h12, wordsRead_of_one (decodeOp8_words h)]
  | imm8 h12 h12' =>
    rw [decodeFirst_imm8 x h12 h12'] at h
    obtain ⟨xx, yy, henc⟩ := encode_of_decodeImm8 h
    rw [henc, encImm_cur_of_fields, wordsRead_of_one (decodeImm8_words h)]
  | addr12 h12 =>
    have hw := addr12_of_fields w
    obtain h12 | h12 | h12 | h12 := h12
    all_goals
      simp only [decodeFirst, h12] at h
      rw [h12] at hw
      cases h
      exact congrArg (· :: []) hw
  | br8 h12 h11 =>
    rw [decodeFirst_br8 x h12 h11] at h
    rw [encode_of_decodeBr8 h, wordsRead_of_one (decodeBr8_words h), ← dispOf, encBr8_of_fields h12 h11]
  | indi h11 h6 =>
    rw [decodeFirst_indi x h11 h6] at h
    obtain ⟨tttt, henc⟩ := encode_of_decodeIndi h
    rw [henc, encImm_ind_of_fields tttt h11, wordsRead_of_one (decodeIndi_words h)]
  | ind h11 h6 h8 h8' =>
    rw [decodeFirst_ind x h11 h6 h8 h8'] at h
    rw [encode_of_decodeInd h, encInd_of_fields h11 h6]
  | indJ h11 h6 h9 =>
    rw [decodeFirst_indJ x h11 h6 h9] at h
    rw [encode_of_decodeJ h, encJ_ind_of_fields h11 h6 h9, wordsRead_of_one (decodeJ_words h)]
  | ri h10 h6 h8 =>
    rw [decodeFirst_ri x h10 h6 h8] at h
    rw [encode_of_decodeRi h, ri_of_fields h10 h6, wordsRead_of_one (decodeRi_words h)]
  | misc h5 =>
    rw [decodeFirst_misc x h5] at h
    rw [encode_of_decodeMisc h, misc_of_fields h5]
  | mmov h11 h6 h8 =>
    rw [decodeFirst_mmov x h11 h6 h8] at h
    cases h
    exact congrArg (· :: []) (encMmov_of_fields h11 h6 h8)
  | ai h4 =>
    rw [decodeFirst_ai x h4] at h
    cases h
    exact congrArg (· :: []) (ai_of_fields h4)
  | x16 h6 =>
    rw [decodeFirst_x16 x h6] at h
    rw [encode_of_decodeX16 h, encX16_of_fields h6]
  | unassigned h11 h6 h8 =>
    rw [decodeFirst_unassigned x h11 h6 h8] at h
    cases h

/-- Settles O2: the words of each format are put together again from its fields. -/
theorem encodeOfDecode : Obligations.EncodeOfDecode :=
  fun _ _ _ _ h => encode_of_decodeFirst (decode_eq_ok_iff.1 h).1

/-! ### Words without an instruction (R142) -/

theorem decodeOp8_ne_none {oooo : Nat} (h : oooo < 16) (o : SfrObj) : decodeOp8 oooo o ≠ none := by
  interval_cases oooo <;> nofun

theorem decodeImm8_ne_none {tttt : Nat} (h : 4 ≤ tttt) (h' : tttt ≤ 11) (o : CurObj) (i : Nibble) :
    decodeImm8 tttt o i ≠ none := by
  interval_cases tttt <;> nofun

theorem decodeBr8_ne_none {cc s : Nat} (hc : cc < 4) (hs : s < 2) (d : BitVec 8) : decodeBr8 cc s d ≠ none := by
  interval_cases cc <;> interval_cases s <;> nofun

theorem decodeJ_ne_none {b : Nat} (h : b < 2) (o : CurObj) (n : Base) : decodeJ b o n ≠ none := by
  interval_cases b <;> nofun

theorem decodeInd_ne_none {ggg ooo : Nat} (hg : 3 ≤ ggg) (hg' : ggg ≤ 5) (ho : ooo < 8) (o : Ind) (x : Word) :
    decodeInd ggg ooo o x ≠ none := by
  interval_cases ggg <;> interval_cases ooo <;> nofun

theorem decodeIndi_ne_none {yy xx : Nat} (hy : yy = 1 ∨ yy = 2) (hx : xx < 4) (o : CurObj) (i : Nibble) :
    decodeIndi yy xx o i ≠ none := by
  obtain rfl | rfl := hy <;> interval_cases xx <;> nofun

theorem decodeRi_ne_none {gg rr : Nat} (h : gg = 0 ∧ 2 ≤ rr ∨ gg = 1 ∨ gg = 2) (hr : rr < 4) (i : Nibble) :
    decodeRi gg rr i ≠ none := by
  obtain ⟨rfl, h⟩ | rfl | rfl := h <;> interval_cases rr <;> nofun

theorem decodeMisc_eq_none_iff {n : Nat} (h : n < 32) (x : Word) : decodeMisc n x = none ↔ n = 0x0A ∨ 0x1B ≤ n := by
  interval_cases n <;> simp [decodeMisc]

theorem decodeX16_eq_none_iff {low : Nat} (o : Ind) (x : Word) : decodeX16 low o x = none ↔ 2 ≤ low := by
  match low with
  | 0 | 1 | low + 2 => simp [decodeX16]

/-- The first words that R142 lists for both cores. -/
def UnassignedWord (w : Word) : Prop :=
  w = 0x000A#16 ∨ (0x001B ≤ w.toNat ∧ w.toNat ≤ 0x001F) ∨ (0x01D0 ≤ w.toNat ∧ w.toNat ≤ 0x01FF)
    ∨ (0x03C0 ≤ w.toNat ∧ w.toNat ≤ 0x03FF ∧ w.extractLsb' 1 2 ≠ 0b00#2)
    ∨ (0x05C0 ≤ w.toNat ∧ w.toNat ≤ 0x05FF) ∨ (0x07C0 ≤ w.toNat ∧ w.toNat ≤ 0x07FF)

/-- The list of R142 by the fields of formats MISC and X16 and the blocks that no format reaches. -/
theorem unassignedWord_iff_fields {w : Word} :
    UnassignedWord w ↔ (bits w 5 11 = 0 ∧ (bits w 0 5 = 0x0A ∨ 0x1B ≤ bits w 0 5))
      ∨ (bits w 6 10 = 0b0000001111 ∧ 2 ≤ bits w 0 3)
      ∨ (bits w 11 5 = 0 ∧ bits w 6 2 = 3 ∧ (bits w 8 3 = 1 ∧ bits w 4 2 ≠ 0 ∨ bits w 8 3 = 5 ∨ bits w 8 3 = 7)) := by
  simp only [UnassignedWord, ne_eq, ← BitVec.toNat_inj, BitVec.extractLsb'_toNat, Nat.shiftRight_eq_div_pow,
    BitVec.toNat_ofNat, bits]
  omega

theorem decodeFirst_eq_none_iff {w x : Word} : decodeFirst w x = none ↔ UnassignedWord w := by
  rw [unassignedWord_iff_fields]
  cases wordFormat w with
  | misc h5 =>
    rw [decodeFirst_misc x h5, decodeMisc_eq_none_iff (bits_lt w 0 5)]
    unfold bits at *; omega
  | x16 h6 =>
    rw [decodeFirst_x16 x h6, decodeX16_eq_none_iff]
    unfold bits at *; omega
  | unassigned h11 h6 h8 =>
    exact iff_of_true (decodeFirst_unassigned x h11 h6 h8) (.inr (.inr ⟨h11, h6, h8⟩))
  | j8 h12 =>
    rw [decodeFirst_j8 x h12]
    exact iff_of_false (decodeJ_ne_none (bits_lt w 11 1) _ _) (by unfold bits at *; omega)
  | sfr h12 =>
    rw [decodeFirst_sfr x h12]
    exact iff_of_false (decodeOp8_ne_none (bits_lt w 8 4) _) (by unfold bits at *; omega)
  | cur h12 =>
    rw [decodeFirst_cur x h12]
    exact iff_of_false (decodeOp8_ne_none (bits_lt w 8 4) _) (by unfold bits at *; omega)
  | imm8 h12 h12' =>
    rw [decodeFirst_imm8 x h12 h12']
    exact iff_of_false (decodeImm8_ne_none h12 h12' _ _) (by unfold bits at *; omega)
  | addr12 h12 =>
    refine iff_of_false ?_ (by unfold bits at *; omega)
    obtain h12 | h12 | h12 | h12 := h12 <;> simp [decodeFirst, h12]
  | br8 h12 h11 =>
    rw [decodeFirst_br8 x h12 h11]
    exact iff_of_false (decodeBr8_ne_none (bits_lt w 9 2) (bits_lt w 7 1) _) (by unfold bits at *; omega)
  | indi h11 h6 =>
    rw [decodeFirst_indi x h11 h6]
    exact iff_of_false (decodeIndi_ne_none h6 (bits_lt w 9 2) _ _) (by unfold bits at *; omega)
  | ind h11 h6 h8 h8' =>
    rw [decodeFirst_ind x h11 h6 h8 h8']
    exact iff_of_false (decodeInd_ne_none h8 h8' (bits_lt w 0 3) _ _) (by unfold bits at *; omega)
  | indJ h11 h6 h9 =>
    rw [decodeFirst_indJ x h11 h6 h9]
    exact iff_of_false (decodeJ_ne_none (bits_lt w 3 1) _ _) (by unfold bits at *; omega)
  | ri h10 h6 h8 =>
    rw [decodeFirst_ri x h10 h6 h8]
    exact iff_of_false (decodeRi_ne_none (by unfold bits at *; omega) (bits_lt w 4 2) _) (by unfold bits at *; omega)
  | mmov h11 h6 h8 =>
    rw [decodeFirst_mmov x h11 h6 h8]
    exact iff_of_false nofun (by unfold bits at *; omega)
  | ai h4 =>
    rw [decodeFirst_ai x h4]
    exact iff_of_false nofun (by unfold bits at *; omega)

theorem decode_nX300_ne_ok_iff {w x : Word} : (∀ i, decode .nX300 w x ≠ .ok i) ↔ UnassignedWord w := by
  have all (i : Instr) : WellFormed .nX300 i = true := rfl
  simp only [ne_eq, decode_eq_ok_iff, all, and_true, ← Option.eq_none_iff_forall_ne_some, decodeFirst_eq_none_iff]

/-- The first words that R142 adds for the nX-4/250: FCLR FLAG, FSET FLAG and the four blocks of MMOV. -/
def Word300 (w : Word) : Prop :=
  w = 0x0005#16 ∨ w = 0x0009#16
    ∨ (0x00C0 ≤ w.toNat ∧ w.toNat ≤ 0x00FF) ∨ (0x02C0 ≤ w.toNat ∧ w.toNat ≤ 0x02FF)
    ∨ (0x04C0 ≤ w.toNat ∧ w.toNat ≤ 0x04FF) ∨ (0x06C0 ≤ w.toNat ∧ w.toNat ≤ 0x06FF)

theorem word300_encMmov (p : Ptr) (m : Nibble) (n : BitVec 2) : Word300 (encMmov p m n) := by
  have hp := ptrCode_lt p
  refine .inr (.inr ?_)
  simp only [encMmov, BitVec.toNat_ofNat]
  omega

theorem word300_of_only300 {w x : Word} {i : Instr} (h : decodeFirst w x = some i) (h300 : i.only300 = true) :
    Word300 w := by
  have henc := encode_of_decodeFirst h
  cases i with
  | mmov p m n => cases henc; exact word300_encMmov p m n
  | bmov p n1 n2 => cases henc; exact word300_encMmov p (bitCode n1) n2
  | fclrFlag => cases henc; exact .inl rfl
  | fsetFlag => cases henc; exact .inr (.inl rfl)
  | _ => cases h300

theorem exists_only300 {w : Word} (h : Word300 w) (x : Word) : ∃ i, decodeFirst w x = some i ∧ i.only300 = true := by
  obtain rfl | rfl | h := h
  · exact ⟨.fclrFlag, rfl, rfl⟩
  · exact ⟨.fsetFlag, rfl, rfl⟩
  · exact ⟨_, decodeFirst_mmov x (by unfold bits; omega) (by unfold bits; omega) (by unfold bits; omega), rfl⟩

theorem decode_nX250_ne_ok_iff {w x : Word} : (∀ i, decode .nX250 w x ≠ .ok i) ↔ UnassignedWord w ∨ Word300 w := by
  have lacks (i : Instr) : WellFormed .nX250 i = true ↔ i.only300 = false := by simp [WellFormed]
  simp only [ne_eq, decode_eq_ok_iff, lacks, ← decodeFirst_eq_none_iff (x := x)]
  constructor
  · intro h
    cases hw : decodeFirst w x with
    | none => exact .inl rfl
    | some i => exact .inr (word300_of_only300 hw (by simpa [hw] using h i))
  · rintro (hw | hw) i ⟨hi, h250⟩
    · simp [hw] at hi
    · obtain ⟨j, hj, h300⟩ := exists_only300 hw x
      cases hi.symm.trans hj
      cases h250.symm.trans h300

/-! ### The length of an instruction by its first word (R121) -/

/-- The fields of the first words of R121, one alternative for each two-word format. -/
theorem fields_of_isTwoWord {w : Word} (h : isTwoWord w = true) :
    (bits w 5 11 = 0 ∧ (bits w 0 5 = 0x14 ∨ bits w 0 5 = 0x15 ∨ bits w 0 5 = 0x16))
      ∨ (bits w 11 5 = 0 ∧ bits w 6 2 = 0 ∧ bits w 8 3 = 3 ∧ (bits w 0 3 = 4 ∨ bits w 0 3 = 5))
      ∨ (bits w 6 10 = 0b0000001111 ∧ (bits w 0 3 = 0 ∨ bits w 0 3 = 1)) := by
  simp only [isTwoWord, Bool.or_eq_true, Bool.and_eq_true, beq_iff_eq, ← BitVec.toNat_inj, BitVec.toNat_ofNat,
    bits] at h ⊢
  omega

/-- A first word of R121 decodes, with any second word and on both cores, to a two-word instruction. -/
theorem decode_of_isTwoWord {w : Word} (h : isTwoWord w = true) (core : CoreKind) (x : Word) :
    ∃ i, decode core w x = .ok i ∧ i.words = 2 := by
  have common {i : Instr} (hd : decodeFirst w x = some i) (h300 : i.only300 = false) (h2 : i.words = 2) :
      ∃ i, decode core w x = .ok i ∧ i.words = 2 :=
    ⟨i, decode_eq_ok_iff.2 ⟨hd, by simp [WellFormed, h300]⟩, h2⟩
  obtain ⟨h5, h0⟩ | ⟨h11, h6, h8, h0⟩ | ⟨h6, h0⟩ := fields_of_isTwoWord h
  · have hd := decodeFirst_misc x h5
    obtain h0 | h0 | h0 := h0 <;> rw [h0] at hd <;> exact common hd rfl rfl
  · have hd := decodeFirst_ind x h11 h6 (by omega) (by omega)
    obtain h0 | h0 := h0 <;> rw [h8, h0] at hd <;> exact common hd rfl rfl
  · have hd := decodeFirst_x16 x h6
    obtain h0 | h0 := h0 <;> rw [h0] at hd <;> exact common hd rfl rfl

theorem words_eq_two_iff {core : CoreKind} {w x : Word} {i : Instr} (h : decode core w x = .ok i) :
    i.words = 2 ↔ isTwoWord w = true := by
  refine ⟨isTwoWord_of_decode h, fun htwo => ?_⟩
  obtain ⟨j, hj, h2⟩ := decode_of_isTwoWord htwo core x
  cases h.symm.trans hj
  exact h2

theorem words_eq_one_or_two (i : Instr) : i.words = 1 ∨ i.words = 2 := by
  unfold Instr.words
  split <;> simp

end Sys2Proof.Machine
end

section
/-! SUPPORT. The statements of 30_encoding.md about the tables' bit patterns, the fetch and the second spellings. -/

namespace Sys2Proof.Machine

/-! ### The words as the tables write them (R126 to R138) -/

theorem encInd_eq_pattern (ggg ooo : BitVec 3) (o : Ind) : encInd ggg.toNat ooo.toNat o = patternInd ggg ooo o := by
  apply BitVec.eq_of_toNat_eq
  have hm := ptrCode_lt o.ptr
  have hp := postCode_lt o.post
  simp only [encInd, patternInd, toNat_append_fields, modeBits_toNat, ofBool_toNat, BitVec.toNat_ofNat]
  omega

theorem encImm_ind_eq_pattern (tttt : Nat) (xx yy : BitVec 2) (i : Nibble) (o : Ind) :
    encImm tttt xx.toNat yy.toNat i (.ind o) = patternIndi xx yy i o := by
  apply BitVec.eq_of_toNat_eq
  have hm := ptrCode_lt o.ptr
  have hp := postCode_lt o.post
  simp only [encImm, patternIndi, toNat_append_fields, modeBits_toNat, ofBool_toNat, BitVec.toNat_ofNat]
  omega

theorem encImm_cur_eq_pattern (tttt i : BitVec 4) (xx yy : Nat) (r : BitVec 8) :
    encImm tttt.toNat xx yy i (.cur r) = tttt ++ i ++ r := by
  apply BitVec.eq_of_toNat_eq
  simp only [encImm, toNat_append_fields, BitVec.toNat_ofNat]
  omega

theorem encOp8_sfr_eq_pattern (oooo : BitVec 4) (ggg ooo : Nat) (r : BitVec 8) :
    encOp8 oooo.toNat ggg ooo (.sfr r) = 0b0010#4 ++ oooo ++ r := by
  apply BitVec.eq_of_toNat_eq
  simp only [encOp8, toNat_append_fields, BitVec.toNat_ofNat]
  omega

theorem encOp8_cur_eq_pattern (oooo : BitVec 4) (ggg ooo : Nat) (r : BitVec 8) :
    encOp8 oooo.toNat ggg ooo (.cur r) = 0b0011#4 ++ oooo ++ r := by
  apply BitVec.eq_of_toNat_eq
  simp only [encOp8, toNat_append_fields, BitVec.toNat_ofNat]
  omega

/-- The three high bits of the number base are its code (R139). -/
theorem baseCode_eq (n : Base) : n.code = (BitVec.ofNat 3 (n.value / 2)).toNat :=
  (BitVec.toNat_ofNat (n.value / 2) 3).symm

theorem encJ_cur_eq_pattern (b : BitVec 1) (n : Base) (r : BitVec 8) :
    encJ b.toNat n (.cur r) = 0b0001#4 ++ b ++ BitVec.ofNat 3 (n.value / 2) ++ r := by
  apply BitVec.eq_of_toNat_eq
  have hn := baseCode_lt n
  simp only [encJ, toNat_append_fields, ← baseCode_eq]
  simp only [BitVec.toNat_ofNat]
  omega

theorem encJ_ind_eq_pattern (b : BitVec 1) (n : Base) (o : Ind) :
    encJ b.toNat n (.ind o)
      = 0b0000011#7 ++ BitVec.ofBool o.post ++ 0b00#2 ++ modeBits o.ptr ++ b ++ BitVec.ofNat 3 (n.value / 2) := by
  apply BitVec.eq_of_toNat_eq
  have hn := baseCode_lt n
  have hm := ptrCode_lt o.ptr
  have hp := postCode_lt o.post
  simp only [encJ, toNat_append_fields, modeBits_toNat, ofBool_toNat, ← baseCode_eq]
  simp only [BitVec.toNat_ofNat]
  omega

theorem encMmov_eq_pattern (p : Ptr) (m : Nibble) (n : BitVec 2) :
    encMmov p m n = 0b00000#5 ++ n ++ 0b0#1 ++ 0b11#2 ++ modeBits p ++ m := by
  apply BitVec.eq_of_toNat_eq
  have hm := ptrCode_lt p
  simp only [encMmov, toNat_append_fields, modeBits_toNat, BitVec.toNat_ofNat]
  omega

theorem encX16_eq_pattern (d : BitVec 3) (o : Ind) :
    encX16 d.toNat o = 0b0000001111#10 ++ modeBits o.ptr ++ BitVec.ofBool o.post ++ d := by
  apply BitVec.eq_of_toNat_eq
  have hm := ptrCode_lt o.ptr
  have hp := postCode_lt o.post
  simp only [encX16, toNat_append_fields, modeBits_toNat, ofBool_toNat, BitVec.toNat_ofNat]
  omega

theorem encBr8_eq_pattern (cc : BitVec 2) (s : BitVec 1) (d : BitVec 8) :
    encBr8 cc.toNat s.toNat d = patternBr8 cc s d := by
  apply BitVec.eq_of_toNat_eq
  simp only [encBr8, patternBr8, toNat_append_fields, BitVec.extractLsb'_toNat, Nat.shiftRight_eq_div_pow,
    BitVec.toNat_ofNat]
  omega

/-- A word that is a field above a nibble: formats RI and AI (R137, R138). -/
theorem nibble_eq_pattern (hi : BitVec 12) (i : Nibble) : BitVec.ofNat 16 (hi.toNat * 16 + i.toNat) = hi ++ i := by
  apply BitVec.eq_of_toNat_eq
  simp only [toNat_append_fields, BitVec.toNat_ofNat]
  omega

theorem addr12_eq_pattern (tttt : BitVec 4) (a : BitVec 12) :
    BitVec.ofNat 16 (tttt.toNat * 4096 + a.toNat) = tttt ++ a := by
  apply BitVec.eq_of_toNat_eq
  simp only [toNat_append_fields, BitVec.toNat_ofNat]
  omega

theorem patternOp8_of_encode {mk : SfrObj → Instr} {oooo : BitVec 4} {ggg ooo : BitVec 3}
    (h : ∀ o, encode (mk o) = [encOp8 oooo.toNat ggg.toNat ooo.toNat o]) : PatternOp8 mk oooo ggg ooo := by
  refine ⟨fun r => ?_, fun r => ?_, fun o => ?_⟩
  · rw [h, encOp8_sfr_eq_pattern]
  · rw [h, encOp8_cur_eq_pattern]
  · rw [h, encOp8, encInd_eq_pattern]

theorem patternImm8_of_encode {mk : CurObj → Nibble → Instr} {tttt : BitVec 4} {xx yy : BitVec 2}
    (h : ∀ o i, encode (mk o i) = [encImm tttt.toNat xx.toNat yy.toNat i o]) : PatternImm8 mk tttt xx yy := by
  refine ⟨fun r i => ?_, fun o i => ?_⟩
  · rw [h, encImm_cur_eq_pattern]
  · rw [h, encImm_ind_eq_pattern]

/-- Settles O6: each instruction has the numbers of its row in the tables of R126 and R131. -/
theorem operateEncodings : Obligations.OperateEncodings := by
  have op8 {mk oooo ggg ooo} := @patternOp8_of_encode mk oooo ggg ooo
  have ind (ggg ooo : BitVec 3) (o : Ind) (rest : List Word) :
      encInd ggg.toNat ooo.toNat o :: rest = patternInd ggg ooo o :: rest :=
    congrArg (· :: rest) (encInd_eq_pattern ggg ooo o)
  have dir (tttt : BitVec 4) (a : BitVec 12) := congrArg (fun w : Word => [w]) (addr12_eq_pattern tttt a)
  exact ⟨op8 fun _ => rfl, op8 fun _ => rfl, op8 fun _ => rfl, op8 fun _ => rfl, op8 fun _ => rfl, op8 fun _ => rfl,
    op8 fun _ => rfl, op8 fun _ => rfl, op8 fun _ => rfl, op8 fun _ => rfl, op8 fun _ => rfl, op8 fun _ => rfl,
    op8 fun _ => rfl, op8 fun _ => rfl, op8 fun _ => rfl, op8 fun _ => rfl,
    dir 0b1100, dir 0b1101, fun o => ind 0b100 0b000 o [], fun o => ind 0b011 0b000 o [], fun o => ind 0b011 0b010 o [],
    fun o => ind 0b011 0b011 o [], fun o a => ind 0b011 0b100 o [a], fun o a => ind 0b011 0b101 o [a],
    fun o => ind 0b011 0b110 o [], fun o => ind 0b011 0b111 o []⟩

theorem bitCode_eq (n : BitVec 2) : bitCode n = BitVec.ofNat 4 (2 ^ n.toNat) := by
  revert n; decide

theorem clearCode_eq (n : BitVec 2) : clearCode n = BitVec.ofNat 4 (15 - 2 ^ n.toNat) := by
  revert n; decide

/-- Settles O7: each instruction has the numbers of its row in the tables of R127 and R132, and the bit and base codes are
those of R139 and R140. -/
theorem immediateEncodings : Obligations.ImmediateEncodings := by
  have imm8 {mk tttt xx yy} := @patternImm8_of_encode mk tttt xx yy
  have one {v w : Word} (h : v = w) : [v] = [w] := congrArg (fun u => [u]) h
  exact ⟨imm8 fun _ _ => rfl, imm8 fun _ _ => rfl, imm8 fun _ _ => rfl, imm8 fun _ _ => rfl, imm8 fun _ _ => rfl,
    imm8 fun _ _ => rfl, imm8 fun _ _ => rfl, imm8 fun _ _ => rfl,
    fun _ _ => rfl, fun _ _ => rfl, fun _ _ => rfl,
    fun o n => bitCode_eq n ▸ rfl, fun o n => bitCode_eq n ▸ rfl, fun o n => bitCode_eq n ▸ rfl,
    fun o n => clearCode_eq n ▸ rfl,
    fun p m n => one (encMmov_eq_pattern p m n), fun p n1 n2 => bitCode_eq n1 ▸ rfl,
    fun r n => one (encJ_cur_eq_pattern 0b0 n r), fun r n => one (encJ_cur_eq_pattern 0b1 n r),
    fun o n => one (encJ_ind_eq_pattern 0b0 n o), fun o n => one (encJ_ind_eq_pattern 0b1 n o)⟩

/-- Settles O8: each branch, transfer with an address and register load has the numbers of its row, and the words of format
MISC are written out in the encoder. -/
theorem controlEncodings : Obligations.ControlEncodings := by
  have br8 (cc : BitVec 2) (s : BitVec 1) (d : BitVec 8) := congrArg (fun w : Word => [w]) (encBr8_eq_pattern cc s d)
  have cad12 (tttt : BitVec 4) (a : BitVec 12) := congrArg (fun w : Word => [w]) (addr12_eq_pattern tttt a)
  have x16 (d : BitVec 3) (o : Ind) (a : Word) := congrArg (fun w : Word => [w, a]) (encX16_eq_pattern d o)
  have imm (hi : BitVec 12) (i : Nibble) := congrArg (fun w : Word => [w]) (nibble_eq_pattern hi i)
  exact ⟨br8 0b00 0b0, br8 0b00 0b1, br8 0b01 0b0, br8 0b01 0b0, br8 0b01 0b1, br8 0b01 0b1, br8 0b10 0b0, br8 0b10 0b0,
    br8 0b10 0b1, br8 0b10 0b1, br8 0b11 0b0, br8 0b11 0b1, cad12 0b1110, cad12 0b1111,
    fun o a => x16 0b000 o a, fun a o => x16 0b001 o a, imm 0x01C,
    imm 0x002, imm 0x003, imm 0x010, imm 0x011, imm 0x012, imm 0x013, imm 0x020, imm 0x021, imm 0x022, imm 0x023,
    rfl, rfl, rfl, rfl, rfl, rfl, rfl, rfl, rfl, rfl, rfl, rfl, rfl, rfl, rfl, rfl, rfl, rfl, rfl,
    fun _ => rfl, fun _ => rfl, fun _ => rfl, rfl, rfl, rfl, rfl⟩

/-- Settles O5: the decoder run on each word, whatever the word after it. -/
theorem decodeSanity : Obligations.DecodeSanity :=
  fun _ => ⟨rfl, rfl, rfl, rfl, rfl, rfl, rfl, rfl, rfl, rfl, rfl, rfl, rfl, rfl, rfl, rfl, rfl, rfl, rfl, rfl, rfl, rfl⟩

/-! ### Lengths and unassigned words -/

/-- The list of R121, as bit patterns. -/
def TwoWordPattern (w : Word) : Prop :=
  w = 0x0014#16 ∨ w = 0x0015#16 ∨ w = 0x0016#16
    ∨ (∃ (mm : BitVec 2) (p : BitVec 1), w = 0b0000001100#10 ++ mm ++ p ++ 0b100#3)
    ∨ (∃ (mm : BitVec 2) (p : BitVec 1), w = 0b0000001100#10 ++ mm ++ p ++ 0b101#3)
    ∨ (∃ (mm : BitVec 2) (p : BitVec 1), w = 0b0000001111#10 ++ mm ++ p ++ 0b000#3)
    ∨ (∃ (mm : BitVec 2) (p : BitVec 1), w = 0b0000001111#10 ++ mm ++ p ++ 0b001#3)

theorem isTwoWord_of_pattern {w : Word} (h : TwoWordPattern w) : isTwoWord w = true := by
  obtain rfl | rfl | rfl | ⟨mm, p, rfl⟩ | ⟨mm, p, rfl⟩ | ⟨mm, p, rfl⟩ | ⟨mm, p, rfl⟩ := h
  case inr.inr.inr.inl | inr.inr.inr.inr.inl | inr.inr.inr.inr.inr.inl | inr.inr.inr.inr.inr.inr =>
    revert mm p
    decide
  all_goals decide

/-- The first word of a two-word instruction is one of R121's. -/
theorem twoWordPattern_of_encode {i : Instr} {w x : Word} (h2 : i.words = 2) (h : encode i = [w, x]) :
    TwoWordPattern w := by
  cases i with
  | ljmp a => cases h; exact .inl rfl
  | lcal a => cases h; exact .inr (.inl rfl)
  | msa a => cases h; exact .inr (.inr (.inl rfl))
  | movhbAbs o a => cases h; exact .inr (.inr (.inr (.inl ⟨_, _, encInd_eq_pattern 0b011 0b100 o⟩)))
  | movlbAbs o a => cases h; exact .inr (.inr (.inr (.inr (.inl ⟨_, _, encInd_eq_pattern 0b011 0b101 o⟩))))
  | movxbLoadAbs o a => cases h; exact .inr (.inr (.inr (.inr (.inr (.inl ⟨_, _, encX16_eq_pattern 0b000 o⟩)))))
  | movxbStoreAbs a o => cases h; exact .inr (.inr (.inr (.inr (.inr (.inr ⟨_, _, encX16_eq_pattern 0b001 o⟩)))))
  | _ => cases h2

/-- Settles O3: an instruction's words are those it was decoded from, and a word of R121 decodes to two-word instructions
only. -/
theorem lengthByFirstWord : Obligations.LengthByFirstWord := by
  intro core w x i h
  refine ⟨words_eq_one_or_two i, fun h2 => ?_, fun hw => (words_eq_two_iff h).2 (isTwoWord_of_pattern hw)⟩
  have henc : encode i = wordsRead w x i := encode_of_decodeFirst (decode_eq_ok_iff.1 h).1
  exact twoWordPattern_of_encode h2 (henc.trans (if_pos h2))

/-! ### Fetch (R121 to R123) -/

theorem runInstr_of_fetch {s : State} {i : Instr} (h : fetch s = .ok i) : runInstr s = exec i s := by
  simp only [runInstr, h]

/-- With no interrupt accepted and the core running, a boundary runs the instruction it fetches. -/
theorem boundary_of_fetch {s : State} {i : Instr} (hno : acceptedSource s = none) (hrun : s.halted = false)
    (h : fetch s = .ok i) : boundary s = exec i s := by
  simp only [boundary, hno, hrun, Bool.false_eq_true, if_false, runInstr_of_fetch h]

/-- The word after a one-word instruction does not matter. -/
theorem decode_second_irrelevant {core : CoreKind} {w x : Word} {i : Instr} (h : decode core w x = .ok i)
    (h1 : i.words = 1) (y : Word) : decode core w y = .ok i := by
  obtain ⟨hd, wf⟩ := decode_eq_ok_iff.1 h
  have henc : encode i = [w] := (encode_of_decodeFirst hd).trans (wordsRead_of_one h1)
  have hprim : i.primary = i := Option.some.inj ((decodeFirst_encode henc x).symm.trans hd)
  exact decode_eq_ok_iff.2 ⟨hprim ▸ decodeFirst_encode henc y, wf⟩

theorem fetch_of_decode {s : State} {i : Instr} (hin : s.pc.toNat < s.params.pmWords)
    (hin2 : i.words = 2 → (s.pc + 1).toNat < s.params.pmWords)
    (h : decode s.params.core (s.pmPeek s.pc) (s.pmPeek (s.pc + 1)) = .ok i) : fetch s = .ok i := by
  obtain h1 | h2 := words_eq_one_or_two i
  · have hone : isTwoWord (s.pmPeek s.pc) = false := by
      rw [Bool.eq_false_iff, ne_eq, ← words_eq_two_iff h, h1]
      decide
    simp only [fetch, pmRead_inside hin, fetchSecond, hone, Bool.false_eq_true, if_false,
      decode_second_irrelevant h h1 0x0000]
  · simp only [fetch, pmRead_inside hin, fetchSecond, (words_eq_two_iff h).1 h2, if_true, pmRead_inside (hin2 h2), h]

/-- Settles O10: the fetch reads a second word exactly when the instruction has one. -/
theorem stepRunsDecoded : Obligations.StepRunsDecoded :=
  fun _ _ _ acts hno hrun hin hin2 hdec =>
    (step_of_coreActs acts).trans (boundary_of_fetch hno hrun (fetch_of_decode hin hin2 hdec))

/-- A word that is no instruction has no second word, so its fetch reads nothing more before it stops. -/
theorem fetch_unassigned {s : State} (hin : s.pc.toNat < s.params.pmWords)
    (h : ∀ x i, decode s.params.core (s.pmPeek s.pc) x ≠ .ok i) :
    fetch s = .error (.undefinedInstruction (s.pmPeek s.pc)) := by
  have hone : isTwoWord (s.pmPeek s.pc) = false := by
    rw [Bool.eq_false_iff]
    intro htwo
    obtain ⟨i, hi, -⟩ := decode_of_isTwoWord htwo s.params.core 0x0000
    exact h _ i hi
  simp only [fetch, pmRead_inside hin, fetchSecond, hone, Bool.false_eq_true, if_false]
  cases hd : decode s.params.core (s.pmPeek s.pc) 0x0000 with
  | error e => rfl
  | ok i => exact absurd hd (h _ i)

/-- Settles O4: R142's lists by the formats, and the fetch that finds one of their words. -/
theorem unassignedWords : Obligations.UnassignedWords := by
  refine ⟨fun w x => decode_nX300_ne_ok_iff, fun w x => ?nX250, fun s u acts hno hrun hin h => ?fetch⟩
  case nX250 => exact decode_nX250_ne_ok_iff.trans (or_congr_left decode_nX300_ne_ok_iff.symm)
  case fetch => exact (step_of_coreActs acts).trans (boundary_of_fetch_error hno hrun (fetch_unassigned hin h))

/-! ### Second spellings (R143) -/

/-- A nibble with a selected bit is not 0 (R347). -/
theorem zeroFlag_or_bitCode (v : Nibble) (n : BitVec 2) : zeroFlag (v ||| bitCode n) = false := by
  revert v n; decide

/-- The one bit of a bit number's mask is clear exactly when that bit of the nibble is 0 (R349). -/
theorem someSelectedClear_bitCode (v : Nibble) (n : BitVec 2) :
    someSelectedClear v (bitCode n) = !v.getLsbD n.toNat := by
  revert v n; decide

theorem execBset_eq_execOrImm (o : CurObj) (n : BitVec 2) (s : State) : execBset o n s = execOrImm o (bitCode n) s := by
  simp only [execBset, execOrImm, logicEffect, zeroFlag_or_bitCode]

theorem execBtst_eq_execMtstImm (o : CurObj) (n : BitVec 2) (s : State) :
    execBtst o n s = execMtstImm o (bitCode n) s := by
  simp only [execBtst, execMtstImm, someSelectedClear_bitCode]

/-- Settles O9: BSET and BTST write Z by the bit, their primary instructions by the nibble; the others are the same by
definition. -/
theorem secondSpellings : Obligations.SecondSpellings := by
  intro i s
  cases i with
  | bset o n => exact ⟨rfl, execBset_eq_execOrImm o n s⟩
  | btst o n => exact ⟨rfl, execBtst_eq_execMtstImm o n s⟩
  | _ => exact ⟨rfl, rfl⟩

end Sys2Proof.Machine
end

section
/-! SUPPORT. The statements of 40_transfer.md: MOV and XCH. -/

namespace Sys2Proof.Machine

/-! ### Results of one-nibble instructions (R200) -/

theorem zeroFlag_eq_decide (r : Nibble) : zeroFlag r = decide (r = 0) := rfl

/-- An instruction that is the one-nibble skeleton leaves the skeleton's result. Only the effect on the nibble at the
operand counts, so the instruction's own effect and the stated one may be written differently. -/
theorem nibbleResult_of_nibbleOp {i : Instr} {reads : Bool} {o : Obj} {f e : Nibble → Effect} {s : State}
    (ready : NibbleReady o s) (hexec : exec i s = nibbleOp reads o f s)
    (heffect : bodyEffect reads o f s = e (s.peek (effAddr s o))) : NibbleResult i reads o e s := by
  obtain ⟨t, hop, done⟩ := nibbleOp_done reads o f s ready.inv.dm ready.answers ready.allowed
  exact ⟨t, hexec.trans hop, heffect ▸ done⟩

/-- An instruction that reads its operand works on the nibble there. -/
theorem nibbleResult_of_read {i : Instr} {o : Obj} {f e : Nibble → Effect} {s : State} (ready : NibbleReady o s)
    (hexec : exec i s = nibbleOp true o f s) (heffect : ∀ v, f v = e v) : NibbleResult i true o e s :=
  nibbleResult_of_nibbleOp ready hexec (heffect _)

/-- An instruction that does not read its operand has an effect that no nibble there decides. -/
theorem nibbleResult_of_noRead {i : Instr} {o : Obj} {e e' : Effect} {s : State} (ready : NibbleReady o s)
    (hexec : exec i s = nibbleOp false o (fun _ => e') s) (heffect : e' = e) :
    NibbleResult i false o (fun _ => e) s :=
  nibbleResult_of_nibbleOp ready hexec heffect

/-! ### MOV and XCH (R201 to R205) -/

theorem exec_movAImm (i : Nibble) (s : State) :
    exec (.movAImm i) s = .next { s with a := i, z := decide (i = 0), pc := s.pc + 1 } := rfl

/-- A logical result goes to obj and A, with Z from it and C as it was; so does the immediate of R204. -/
theorem logicEffect_eq (s : State) (r : Nibble) : logicEffect s r = ⟨some r, r, s.c, decide (r = 0)⟩ := by
  rw [logicEffect, zeroFlag_eq_decide]

/-- Settles O14: MOV to obj does not read it, MOV A,obj and XCH do; MOV A,#i4 has no operand in data memory. -/
theorem transferResult : Obligations.TransferResult := by
  refine ⟨fun o s ready => ?movObjA, fun o i s ready => ?movObjImm, exec_movAImm, fun o s ready => ?movAObj,
    fun o s ready => ?xch⟩
  case movObjA => exact nibbleResult_of_noRead ready rfl rfl
  case movObjImm => exact nibbleResult_of_noRead ready rfl (logicEffect_eq s i)
  case movAObj =>
    exact nibbleResult_of_read ready rfl fun v => congrArg (Effect.mk none v s.c) (zeroFlag_eq_decide v)
  case xch => exact nibbleResult_of_read ready rfl fun _ => rfl

end Sys2Proof.Machine
end

section
/-! SUPPORT. The statement of 41_rotate_incdec.md: ROL, ROR, INC and DEC. -/

namespace Sys2Proof.Machine

/-! ### Results that go to obj and A (R230 to R233, R261 to R270) -/

/-- The Z of a stored result is the nibble being 0. -/
theorem Alu.effect_eq (x : Alu) : x.effect = ⟨some x.r, x.r, x.c, decide (x.r = 0)⟩ := by
  rw [Alu.effect, zeroFlag_eq_decide]

/-! ### Rotation as arithmetic (R230, R231) -/

/-- Moving bits 2..0 up under the old C doubles the nibble, modulo 16, and adds C; bit 3 weighs 8. -/
theorem rolAlu_eq (v : Nibble) (c : Bool) :
    rolAlu v c = ⟨BitVec.ofNat 4 (2 * v.toNat + c.toNat), decide (8 ≤ v.toNat)⟩ := by
  have hr : v.extractLsb' 0 3 ++ BitVec.ofBool c = BitVec.ofNat 4 (2 * v.toNat + c.toNat) := by
    have hc := c.toNat_lt
    apply BitVec.eq_of_toNat_eq
    rw [BitVec.toNat_append, ← Nat.shiftLeft_add_eq_or_of_lt (BitVec.ofBool c).isLt]
    simp only [BitVec.extractLsb'_toNat, BitVec.toNat_ofBool, BitVec.toNat_ofNat, Nat.shiftRight_zero,
      Nat.shiftLeft_eq]
    omega
  have hc : v.getLsbD 3 = decide (8 ≤ v.toNat) := BitVec.msb_eq_decide v
  rw [rolAlu, hr, hc]

/-- Moving bits 3..1 down halves the nibble, and the old C enters with weight 8; bit 0 is the parity. -/
theorem rorAlu_eq (v : Nibble) (c : Bool) :
    rorAlu v c = ⟨BitVec.ofNat 4 (8 * c.toNat + v.toNat / 2), decide (v.toNat % 2 = 1)⟩ := by
  have hr : BitVec.ofBool c ++ v.extractLsb' 1 3 = BitVec.ofNat 4 (8 * c.toNat + v.toNat / 2) := by
    have hv := v.isLt
    have hc := c.toNat_lt
    apply BitVec.eq_of_toNat_eq
    rw [BitVec.toNat_append, ← Nat.shiftLeft_add_eq_or_of_lt (v.extractLsb' 1 3).isLt]
    simp only [BitVec.extractLsb'_toNat, BitVec.toNat_ofBool, BitVec.toNat_ofNat, Nat.shiftRight_eq_div_pow,
      Nat.shiftLeft_eq]
    omega
  have hc : v.getLsbD 0 = decide (v.toNat % 2 = 1) := Nat.testBit_zero v.toNat
  rw [rorAlu, hr, hc]

/-! ### The flags of INC and DEC by the nibble before (R232, R233) -/

/-- In four bits 0FH is -1. -/
theorem nibble_add_one_eq_zero_iff (v : Nibble) : v + 1 = 0 ↔ v = 0xF :=
  eq_neg_iff_add_eq_zero.symm

/-- In four bits 0FH + 1 is 0. -/
theorem nibble_sub_one_eq_fifteen_iff (v : Nibble) : v - 1 = 0xF ↔ v = 0 :=
  sub_eq_iff_eq_add

theorem incAlu_effect (v : Nibble) :
    (incAlu v).effect = ⟨some (v + 1), v + 1, decide (v = 0xF), decide (v = 0xF)⟩ := by
  have hc : (v + 1 == 0) = decide (v = 0xF) := decide_eq_decide.2 (nibble_add_one_eq_zero_iff v)
  rw [Alu.effect_eq, incAlu, hc, decide_eq_decide.2 (nibble_add_one_eq_zero_iff v)]

theorem decAlu_effect (v : Nibble) :
    (decAlu v).effect = ⟨some (v - 1), v - 1, decide (v = 0), decide (v = 1)⟩ := by
  have hc : (v - 1 == 0xF#4) = decide (v = 0) := decide_eq_decide.2 (nibble_sub_one_eq_fifteen_iff v)
  have hz : decide (v - 1 = 0) = decide (v = 1) := decide_eq_decide.2 sub_eq_zero
  rw [Alu.effect_eq, decAlu, hc, hz]

/-- Settles O15: each of the four is the one-nibble skeleton with a read, so what is left is its effect on the nibble
read. -/
theorem rotateIncDecResult : Obligations.RotateIncDecResult := by
  refine ⟨fun o s ready => ?rol, fun o s ready => ?ror, fun o s ready => ?inc, fun o s ready => ?dec⟩
  case rol => exact nibbleResult_of_read ready rfl fun v => by rw [Alu.effect_eq, rolAlu_eq]
  case ror => exact nibbleResult_of_read ready rfl fun v => by rw [Alu.effect_eq, rorAlu_eq]
  case inc => exact nibbleResult_of_read ready rfl incAlu_effect
  case dec => exact nibbleResult_of_read ready rfl decAlu_effect

end Sys2Proof.Machine
end

section
/-! SUPPORT. The statements of 42_arithmetic.md: ADD, ADC, ADCD, ADCJ and SUB, SBC, SBCD, SBCJ. -/

namespace Sys2Proof.Machine

/-! ### Exact differences, narrowed (R9) -/

/-- Narrowing is additive, so it commutes with subtraction. -/
theorem bitVec_ofInt_sub {w : Nat} (m k : Int) : BitVec.ofInt w (m - k) = BitVec.ofInt w m - BitVec.ofInt w k := by
  rw [eq_sub_iff_add_eq, ← BitVec.ofInt_add, sub_add_cancel]

/-- An exact difference of two nibbles and a borrow in is negative when the minuend is the smaller. -/
theorem exactDiff_neg_iff (v a : Nibble) (cin : Bool) :
    (v.toNat : Int) - a.toNat - cin.toNat < 0 ↔ v.toNat < a.toNat + cin.toNat := by
  omega

/-! ### Subtraction in four bits (R266 to R268) -/

theorem subAlu_eq (v a : Nibble) (cin : Bool) :
    subAlu v a cin = ⟨v - a - BitVec.ofNat 4 cin.toNat, decide (v.toNat < a.toNat + cin.toNat)⟩ := by
  simp only [subAlu, bitVec_ofInt_sub, BitVec.ofInt_natCast, BitVec.ofNat_toNat, BitVec.setWidth_eq, exactDiff_neg_iff]

/-! ### Decimal addition and subtraction (R264, R269) -/

/-- ADCD adjusts and carries on the same test. -/
theorem addDecimal_eq (v a : Nibble) (cin : Bool) :
    addDecimal v a cin =
      ⟨BitVec.ofNat 4 (if 9 < v.toNat + a.toNat + cin.toNat then v.toNat + a.toNat + cin.toNat + 6
          else v.toNat + a.toNat + cin.toNat),
        decide (9 < v.toNat + a.toNat + cin.toNat)⟩ := by
  by_cases adjusts : 9 < v.toNat + a.toNat + cin.toNat
  · simp only [addDecimal, adjusts, if_true, decide_true]
  · simp only [addDecimal, adjusts, if_false, decide_false]

/-- SBCD is SBC, with 0AH added to the 4-bit difference on a borrow. -/
theorem subDecimal_eq (v a : Nibble) (cin : Bool) :
    subDecimal v a cin = ⟨if (subAlu v a cin).c then (subAlu v a cin).r + 0xA else (subAlu v a cin).r,
      (subAlu v a cin).c⟩ := by
  by_cases borrow : (v.toNat : Int) - a.toNat - cin.toNat < 0
  · simp only [subDecimal, subAlu, borrow, if_true, decide_true, BitVec.ofInt_add, BitVec.ofInt_ofNat,
      BitVec.ofNat_eq_ofNat]
  · simp only [subDecimal, subAlu, borrow, if_false, decide_false, Bool.false_eq_true]

/-- Two digits and a carry sum to at most 19, so the 6 added above 9 takes exactly the carry's ten out of
the nibble. -/
theorem addDecimal_digits {v a : Nibble} (cin : Bool) (hv : v.toNat ≤ 9) (ha : a.toNat ≤ 9) :
    (addDecimal v a cin).r.toNat ≤ 9
      ∧ 10 * (addDecimal v a cin).c.toNat + (addDecimal v a cin).r.toNat = v.toNat + a.toNat + cin.toNat := by
  have hc := cin.toNat_le
  by_cases adjusts : 9 < v.toNat + a.toNat + cin.toNat
  · simp only [addDecimal, if_pos adjusts, BitVec.toNat_ofNat, Bool.toNat_true]
    omega
  · simp only [addDecimal, if_neg adjusts, BitVec.toNat_ofNat, Bool.toNat_false]
    omega

/-- The difference of two digits and a borrow is at least -10, so the ten lent on a borrow makes it a digit. -/
theorem subDecimal_digits {v a : Nibble} (cin : Bool) (hv : v.toNat ≤ 9) (ha : a.toNat ≤ 9) :
    (subDecimal v a cin).r.toNat ≤ 9
      ∧ v.toNat + 10 * (subDecimal v a cin).c.toNat = (subDecimal v a cin).r.toNat + a.toNat + cin.toNat := by
  have hc := cin.toNat_le
  by_cases borrow : (v.toNat : Int) - a.toNat - cin.toNat < 0
  · simp only [subDecimal, if_pos borrow, BitVec.toNat_ofInt, Bool.toNat_true]
    omega
  · simp only [subDecimal, if_neg borrow, BitVec.toNat_ofInt, Bool.toNat_false]
    omega

/-! ### Addition and subtraction in a number base (R265, R270) -/

theorem base_value_eq_sixteen_iff (n : Base) : n.value = 16 ↔ n = .b16 := by
  cases n <;> decide

/-- The test of ADCJ is `>=` for base 16 under either threshold (D19). -/
theorem adjustsAt_eq (threshold : AdcjThreshold) (t : Nat) (n : Base) :
    adjustsAt threshold t n
      = if threshold = .gt ∧ n.value ≠ 16 then decide (n.value < t) else decide (n.value ≤ t) := by
  cases threshold with
  | ge => simp only [adjustsAt, reduceCtorEq, false_and, if_false]
  | gt =>
    by_cases hn : n = .b16
    · subst hn; rfl
    · have hv : n.value ≠ 16 := mt (base_value_eq_sixteen_iff n).1 hn
      simp only [adjustsAt, if_neg hn, hv, ne_eq, not_false_eq_true, and_self, if_true]

/-- ADCJ adjusts and carries on the same test. -/
theorem addBase_eq (threshold : AdcjThreshold) (v : Nibble) (cin : Bool) (n : Base) :
    addBase threshold v cin n =
      ⟨BitVec.ofNat 4 (if adjustsAt threshold (v.toNat + cin.toNat) n then v.toNat + cin.toNat + (16 - n.value)
          else v.toNat + cin.toNat),
        adjustsAt threshold (v.toNat + cin.toNat) n⟩ := by
  cases adjusts : adjustsAt threshold (v.toNat + cin.toNat) n <;>
    simp only [addBase, adjusts, if_true, if_false, Bool.false_eq_true]

/-- Taking C from a nibble borrows from 0 only. -/
theorem exactDec_neg (v : Nibble) (cin : Bool) :
    decide ((v.toNat : Int) - cin.toNat < 0) = (decide (v = 0) && cin) := by
  cases cin with
  | false => simp only [Bool.toNat_false, Bool.and_false, decide_eq_false_iff_not]; omega
  | true =>
    have hv : v = 0 ↔ v.toNat = 0 := BitVec.toNat_inj.symm
    rw [Bool.and_true, decide_eq_decide, hv, Bool.toNat_true]
    omega

theorem subBase_eq (adjust : SbcjAdjust) (v : Nibble) (cin : Bool) (n : Base) :
    subBase adjust v cin n =
      ⟨if (if adjust = .borrow then decide (v = 0) && cin else decide (v - BitVec.ofNat 4 cin.toNat = 0xF)) then
          BitVec.ofNat 4 (15 + n.value) else v - BitVec.ofNat 4 cin.toNat,
        decide (v = 0) && cin⟩ := by
  simp only [subBase, bitVec_ofInt_sub, BitVec.ofInt_natCast, BitVec.ofNat_toNat, BitVec.setWidth_eq, exactDec_neg]
  cases adjust <;> rfl

/-! ### The statements -/

/-- Settles O16: the model adds as the statement does, and Z is the stored nibble's. -/
theorem addResult : Obligations.AddResult := by
  refine ⟨fun o s ready => ?addA, fun o i s ready => ?addImm, fun o s ready => ?adc⟩
  case addA => exact nibbleResult_of_read ready rfl fun v => (addAlu v s.a false).effect_eq
  case addImm => exact nibbleResult_of_read ready rfl fun v => (addAlu v i false).effect_eq
  case adc => exact nibbleResult_of_read ready rfl fun v => (addAlu v s.a s.c).effect_eq

/-- Settles O17: the exact difference, narrowed, is the difference of nibbles. -/
theorem subResult : Obligations.SubResult := by
  refine ⟨fun o s ready => ?subA, fun o i s ready => ?subImm, fun o s ready => ?sbc⟩
  case subA => exact nibbleResult_of_read ready rfl fun v => by rw [Alu.effect_eq, subAlu_eq]
  case subImm => exact nibbleResult_of_read ready rfl fun v => by rw [Alu.effect_eq, subAlu_eq]
  case sbc => exact nibbleResult_of_read ready rfl fun v => by rw [Alu.effect_eq, subAlu_eq]

/-- Settles O18: a decimal result adjusts and carries on one test, for operands that are no digits too. -/
theorem decimalResult : Obligations.DecimalResult := by
  refine ⟨fun o s ready => ?adcd, fun o s ready => ?sbcd⟩
  case adcd => exact nibbleResult_of_read ready rfl fun v => by rw [Alu.effect_eq, addDecimal_eq]
  case sbcd => exact nibbleResult_of_read ready rfl fun v => by rw [Alu.effect_eq, subDecimal_eq, subAlu_eq]

/-- Settles O19: A and C are those of the decimal result, which on digits is a digit and its carry or borrow. -/
theorem decimalDigits : Obligations.DecimalDigits := by
  intro o s ready hv ha
  constructor
  · obtain ⟨t, hexec, done⟩ : NibbleResult (.adcd o) true (sfrObj o) (fun v => (addDecimal v s.a s.c).effect) s :=
      nibbleResult_of_read ready rfl fun _ => rfl
    refine ⟨t, hexec, ?_⟩
    rw [done.a, done.c]
    exact addDecimal_digits s.c hv ha
  · obtain ⟨t, hexec, done⟩ : NibbleResult (.sbcd o) true (sfrObj o) (fun v => (subDecimal v s.a s.c).effect) s :=
      nibbleResult_of_read ready rfl fun _ => rfl
    refine ⟨t, hexec, ?_⟩
    rw [done.a, done.c]
    exact subDecimal_digits s.c hv ha

/-- Settles O20: in every base, under either value of the two parameters. -/
theorem baseResult : Obligations.BaseResult := by
  refine ⟨fun o n s ready => ?adcj, fun o n s ready => ?sbcj⟩
  case adcj => exact nibbleResult_of_read ready rfl fun v => by rw [Alu.effect_eq, addBase_eq, adjustsAt_eq]
  case sbcj => exact nibbleResult_of_read ready rfl fun v => by rw [Alu.effect_eq, subBase_eq]

end Sys2Proof.Machine
end

section
/-! SUPPORT. The statements of 43_compare_logical.md: CMP, the branches after it, and AND, OR and XOR. -/

namespace Sys2Proof.Machine

/-! ### The flags of CMP (R301, R302) -/

/-- Without a borrow in, the borrow of obj minus the other operand is obj being the smaller, and the difference is 0 on
equality. -/
theorem subAlu_flagsOnly (v b : Nibble) (s : State) :
    (subAlu v b false).flagsOnly s = ⟨none, s.a, decide (v.toNat < b.toNat), decide (v = b)⟩ := by
  have hr : (subAlu v b false).r = v - b := by rw [subAlu_eq]; exact sub_zero _
  have hc : (subAlu v b false).c = decide (v.toNat < b.toNat) := by rw [subAlu_eq]; rfl
  have hz : decide (v - b = 0) = decide (v = b) := decide_eq_decide.2 sub_eq_zero
  rw [Alu.flagsOnly, zeroFlag_eq_decide, hr, hc, hz]

/-- Settles O21: CMP reads its operand and leaves the flags of the difference. -/
theorem compareResult : Obligations.CompareResult := by
  refine ⟨fun o s ready => ?cmpA, fun o i s ready => ?cmpImm⟩
  case cmpA => exact nibbleResult_of_read ready rfl fun v => subAlu_flagsOnly v s.a s
  case cmpImm => exact nibbleResult_of_read ready rfl fun v => subAlu_flagsOnly v i s

/-! ### AND, OR and XOR (R303 to R308) -/

/-- Settles O22: each of the six reads its operand and puts the logical result of the nibble there. -/
theorem logicalResult : Obligations.LogicalResult := by
  refine ⟨fun o s ready => ⟨?andA, ?orA, ?xorA⟩, fun o i s ready => ⟨?andImm, ?orImm, ?xorImm⟩⟩
  case andA => exact nibbleResult_of_read ready rfl fun v => logicEffect_eq s (v &&& s.a)
  case orA => exact nibbleResult_of_read ready rfl fun v => logicEffect_eq s (v ||| s.a)
  case xorA => exact nibbleResult_of_read ready rfl fun v => logicEffect_eq s (v ^^^ s.a)
  case andImm => exact nibbleResult_of_read ready rfl fun v => logicEffect_eq s (v &&& i)
  case orImm => exact nibbleResult_of_read ready rfl fun v => logicEffect_eq s (v ||| i)
  case xorImm => exact nibbleResult_of_read ready rfl fun v => logicEffect_eq s (v ^^^ i)

/-! ### Conditional branches (R436, R437) -/

/-- NextPC plus the signed displacement, in 16 bits, is the exact sum narrowed. -/
theorem relTarget_eq (pc : Word) (d : BitVec 8) : relTarget pc d = BitVec.ofInt 16 (pc.toNat + 1 + d.toInt) := by
  simp only [relTarget, BitVec.signExtend, BitVec.ofInt_add, BitVec.ofInt_natCast, BitVec.ofNat_toNat,
    BitVec.setWidth_eq, BitVec.ofInt_ofNat, BitVec.ofNat_eq_ofNat]

theorem branchIf_eq (cond : Bool) (d : BitVec 8) (s : State) : branchIf cond d s = .next (s.branched cond d) := by
  have hnext : s.pc + 1 = BitVec.ofNat 16 (s.pc.toNat + 1) := by
    rw [BitVec.ofNat_add, BitVec.ofNat_toNat, BitVec.setWidth_eq, BitVec.ofNat_eq_ofNat]
  rw [branchIf, State.setPc, State.branched, relTarget_eq, hnext]

/-- A branch whose condition holds exactly when `rel` does is taken exactly then. -/
theorem branchIf_decides {cond : Bool} {rel : Prop} (h : cond = true ↔ rel) (d : BitVec 8) (s : State) :
    (rel → branchIf cond d s = .next (s.branched true d))
      ∧ (¬ rel → branchIf cond d s = .next (s.branched false d)) := by
  rw [branchIf_eq]
  exact ⟨fun hrel => by rw [h.2 hrel], fun hrel => by rw [Bool.eq_false_iff.2 (mt h.1 hrel)]⟩

/-- What the six branches of R437 decide in a state: the relation of `v` to `b`, as unsigned nibbles. -/
def BranchesDecide (v b : Nibble) (t : State) : Prop :=
  ∀ d i (rel : Prop), (i, rel) ∈ [(Instr.blt d, v.toNat < b.toNat), (.bge d, b.toNat ≤ v.toNat), (.beq d, v = b),
      (.bne d, v ≠ b), (.ble d, v.toNat ≤ b.toNat), (.bgt d, b.toNat < v.toNat)] →
    (rel → exec i t = .next (t.branched true d)) ∧ (¬ rel → exec i t = .next (t.branched false d))

/-- With C for the smaller and Z for equality, each branch's condition on the flags is its relation. -/
theorem branchesDecide_of_flags {v b : Nibble} {t : State} (hc : t.c = decide (v.toNat < b.toNat))
    (hz : t.z = decide (v = b)) : BranchesDecide v b t := by
  have hlt : t.c = true ↔ v.toNat < b.toNat := by rw [hc, decide_eq_true_iff]
  have heq : t.z = true ↔ v = b := by rw [hz, decide_eq_true_iff]
  have hge : (!t.c) = true ↔ b.toNat ≤ v.toNat := by rw [Bool.not_eq_true', Bool.eq_false_iff, ne_eq, hlt, not_lt]
  have hne : (!t.z) = true ↔ v ≠ b := by rw [Bool.not_eq_true', Bool.eq_false_iff, ne_eq, heq]
  have hle : (t.c || t.z) = true ↔ v.toNat ≤ b.toNat := by
    rw [Bool.or_eq_true, hlt, heq, ← BitVec.toNat_inj, le_iff_lt_or_eq]
  have hgt : (!t.c && !t.z) = true ↔ b.toNat < v.toNat := by
    rw [← Bool.not_or, Bool.not_eq_true', Bool.eq_false_iff, ne_eq, hle, not_le]
  intro d i rel hmem
  simp only [List.mem_cons, List.not_mem_nil, or_false, Prod.mk.injEq] at hmem
  obtain ⟨rfl, rfl⟩ | ⟨rfl, rfl⟩ | ⟨rfl, rfl⟩ | ⟨rfl, rfl⟩ | ⟨rfl, rfl⟩ | ⟨rfl, rfl⟩ := hmem
  exacts [branchIf_decides hlt d t, branchIf_decides hge d t, branchIf_decides heq d t, branchIf_decides hne d t,
    branchIf_decides hle d t, branchIf_decides hgt d t]

/-- An instruction with the result of CMP leaves a state in which the branches decide its comparison. -/
theorem branchesDecide_of_nibbleResult {cmp : Instr} {o : Obj} {b : Nibble} {s : State}
    (h : NibbleResult cmp true o (fun v => ⟨none, s.a, decide (v.toNat < b.toNat), decide (v = b)⟩) s) :
    ∃ t, exec cmp s = .next t ∧ BranchesDecide (s.peek (effAddr s o)) b t := by
  obtain ⟨t, hexec, done⟩ := h
  exact ⟨t, hexec, branchesDecide_of_flags done.c done.z⟩

/-- Settles O39: the result of either CMP, then the branches by its flags. -/
theorem compareThenBranch : Obligations.CompareThenBranch := by
  obtain ⟨cmpA, cmpImm⟩ := compareResult
  exact ⟨fun o s ready => branchesDecide_of_nibbleResult (cmpA o s ready),
    fun o b s ready => branchesDecide_of_nibbleResult (cmpImm o b s ready)⟩

end Sys2Proof.Machine
end

section
/-! SUPPORT. The statements of 44_mask_bit.md: MCLR, MSET, MNOT, MTST, MMOV and BCLR, BSET, BNOT, BTST, BMOV. -/

namespace Sys2Proof.Machine

/-- An instruction that reads its operand and puts a logical result of the nibble there leaves that result in obj and A,
with Z from it. -/
theorem nibbleResult_of_logic {i : Instr} {o : Obj} {s : State} (ready : NibbleReady o s) (r : Nibble → Nibble)
    (hexec : exec i s = nibbleOp true o (fun v => logicEffect s (r v)) s) :
    NibbleResult i true o (fun v => ⟨some (r v), r v, s.c, decide (r v = 0)⟩) s :=
  nibbleResult_of_read ready hexec fun v => logicEffect_eq s (r v)

/-! ### Masks, bit by bit (R331 to R336) -/

theorem getLsbD_and_mask (v m : Nibble) (k : Nat) :
    (v &&& m).getLsbD k = if m.getLsbD k then v.getLsbD k else false := by
  rw [BitVec.getLsbD_and]
  cases m.getLsbD k
  · exact Bool.and_false _
  · exact Bool.and_true _

theorem getLsbD_or_mask (v m : Nibble) (k : Nat) :
    (v ||| m).getLsbD k = if m.getLsbD k then true else v.getLsbD k := by
  rw [BitVec.getLsbD_or]
  cases m.getLsbD k
  · exact Bool.or_false _
  · exact Bool.or_true _

theorem getLsbD_xor_mask (v m : Nibble) (k : Nat) :
    (v ^^^ m).getLsbD k = if m.getLsbD k then !v.getLsbD k else v.getLsbD k := by
  rw [BitVec.getLsbD_xor]
  cases m.getLsbD k
  · exact Bool.xor_false _
  · exact Bool.xor_true _

/-- The nibble keeps its bits outside the mask, and the mask brings in its own when the bit copied is 1. -/
theorem getLsbD_copyBit (v m : Nibble) (b : Bool) {k : Nat} (hk : k < 4) :
    (copyBit v m b).getLsbD k = if m.getLsbD k then b else v.getLsbD k := by
  have hin : (if b then m else 0).getLsbD k = (m.getLsbD k && b) := by cases b <;> simp
  rw [copyBit, BitVec.getLsbD_or, BitVec.getLsbD_and, BitVec.getLsbD_not, decide_eq_true hk, hin]
  cases m.getLsbD k <;> simp

/-- AND with obj changes a mask exactly when the mask selects a bit that is 0 in obj. -/
theorem someSelectedClear_eq_any (v m : Nibble) :
    someSelectedClear v m = (List.range 4).any fun k => m.getLsbD k && !v.getLsbD k := by
  have hbits : v &&& m = m ↔ ∀ k < 4, ¬ (m.getLsbD k && !v.getLsbD k) = true := by
    rw [BitVec.eq_of_getLsbD_eq_iff]
    refine forall₂_congr fun k _ => ?_
    rw [getLsbD_and_mask]
    cases m.getLsbD k <;> simp
  rw [Bool.eq_iff_iff, someSelectedClear, bne_iff_ne, ne_eq, hbits]
  simp

/-- Settles O23: MCLR, MSET, MNOT and MMOV are AND, OR, XOR and a copy under the mask, taken bit by bit; MTST compares the
mask with what AND leaves of it. -/
theorem maskResult : Obligations.MaskResult := by
  refine ⟨fun o m s ready => ⟨?mclr, ?mset, ?mnot⟩, fun p m n s ready => ?mmov, fun o s ready => ?mtstA,
    fun o m s ready => ?mtstImm⟩
  case mclr => exact ⟨(· &&& m), fun v k _ => getLsbD_and_mask v m k, nibbleResult_of_logic ready _ rfl⟩
  case mset => exact ⟨(· ||| m), fun v k _ => getLsbD_or_mask v m k, nibbleResult_of_logic ready _ rfl⟩
  case mnot => exact ⟨(· ^^^ m), fun v k _ => getLsbD_xor_mask v m k, nibbleResult_of_logic ready _ rfl⟩
  case mmov =>
    exact ⟨(copyBit · m (s.a.getLsbD n.toNat)), fun v _ hk => getLsbD_copyBit v m _ hk,
      nibbleResult_of_logic ready _ rfl⟩
  case mtstA =>
    exact nibbleResult_of_read ready rfl fun v => congrArg (testEffect s) (someSelectedClear_eq_any v s.a)
  case mtstImm =>
    exact nibbleResult_of_read ready rfl fun v => congrArg (testEffect s) (someSelectedClear_eq_any v m)

/-! ### Single bits: masks of one bit (R346 to R352) -/

theorem getLsbD_bitCode (n : BitVec 2) (k : Nat) : (bitCode n).getLsbD k = decide (k = n.toNat) := by
  have hn : n.toNat < 4 := n.isLt
  have hcode : bitCode n = BitVec.twoPow 4 n.toNat := rfl
  rw [hcode, BitVec.getLsbD_twoPow, decide_eq_true hn, Bool.true_and, decide_eq_decide.2 eq_comm]

theorem getLsbD_clearCode (n : BitVec 2) {k : Nat} (hk : k < 4) : (clearCode n).getLsbD k = !decide (k = n.toNat) := by
  rw [clearCode, BitVec.getLsbD_not, decide_eq_true hk, Bool.true_and, getLsbD_bitCode]

/-- What a mask of one bit selects is that bit. -/
theorem ite_getLsbD_bitCode (n : BitVec 2) (k : Nat) (x y : Bool) :
    (if (bitCode n).getLsbD k then x else y) = if k = n.toNat then x else y := by
  simp only [getLsbD_bitCode, decide_eq_true_eq]

theorem getLsbD_and_clearCode (v : Nibble) (n : BitVec 2) {k : Nat} (hk : k < 4) :
    (v &&& clearCode n).getLsbD k = if k = n.toNat then false else v.getLsbD k := by
  rw [getLsbD_and_mask, getLsbD_clearCode n hk]
  simp only [Bool.not_eq_true', decide_eq_false_iff_not, ite_not]

theorem getLsbD_or_bitCode (v : Nibble) (n : BitVec 2) (k : Nat) :
    (v ||| bitCode n).getLsbD k = if k = n.toNat then true else v.getLsbD k := by
  rw [getLsbD_or_mask, ite_getLsbD_bitCode]

/-- The bit reversed is bit n, under the name the statement gives it. -/
theorem getLsbD_xor_bitCode (v : Nibble) (n : BitVec 2) (k : Nat) :
    (v ^^^ bitCode n).getLsbD k = if k = n.toNat then !v.getLsbD n.toNat else v.getLsbD k := by
  rw [getLsbD_xor_mask, ite_getLsbD_bitCode]
  exact ite_congr rfl (fun h => h ▸ rfl) fun _ => rfl

theorem getLsbD_copyBit_bitCode (v : Nibble) (n : BitVec 2) (b : Bool) {k : Nat} (hk : k < 4) :
    (copyBit v (bitCode n) b).getLsbD k = if k = n.toNat then b else v.getLsbD k := by
  rw [getLsbD_copyBit v _ b hk, ite_getLsbD_bitCode]

/-- Settles O24: four are mask instructions whose mask selects one bit, BSET with Z written as 0; BTST reads its bit itself. -/
theorem bitResult : Obligations.BitResult := by
  refine ⟨fun o n s ready => ⟨?bclr, ?bset, ?bnot, ?btst⟩, fun p n1 n2 s ready => ?bmov⟩
  case bclr =>
    exact ⟨(· &&& clearCode n), fun v _ hk => getLsbD_and_clearCode v n hk, nibbleResult_of_logic ready _ rfl⟩
  case bset =>
    exact ⟨(· ||| bitCode n), fun v k _ => getLsbD_or_bitCode v n k, nibbleResult_of_read ready rfl fun _ => rfl⟩
  case bnot =>
    exact ⟨(· ^^^ bitCode n), fun v k _ => getLsbD_xor_bitCode v n k, nibbleResult_of_logic ready _ rfl⟩
  case btst => exact nibbleResult_of_read ready rfl fun _ => rfl
  case bmov =>
    exact ⟨(copyBit · (bitCode n1) (s.a.getLsbD n2.toNat)), fun v _ hk => getLsbD_copyBit_bitCode v n1 _ hk,
      nibbleResult_of_logic ready _ rfl⟩

end Sys2Proof.Machine
end

section
/-! SUPPORT. The statements of 45_romtable_external.md: MOVHB, MOVLB and MOVXB, where they complete, where they stop,
and where they leave registers open. -/

namespace Sys2Proof.Machine

/-! ### The source of a byte: program memory and external memory (R74, R76) -/

theorem pmHigh_inside {s : State} {a : Word} (h : a.toNat < s.params.pmWords) :
    pmHigh s a = .ok ((s.pmPeek a).extractLsb' 8 8) := by
  simp only [pmHigh, pmRead, if_pos h, wordHigh, State.pmPeek]

theorem pmLow_inside {s : State} {a : Word} (h : a.toNat < s.params.pmWords) :
    pmLow s a = .ok ((s.pmPeek a).extractLsb' 0 8) := by
  simp only [pmLow, pmRead, if_pos h, wordLow, State.pmPeek]

theorem xmRead_inside {s : State} {a : Word} (h : xmHas s a = true) : xmRead s a = .ok (s.xmPeek a) := if_pos h

theorem pmHigh_outside {s : State} {a : Word} (h : s.params.pmWords ≤ a.toNat) :
    pmHigh s a = .error (.unimplementedPM a) := by
  simp only [pmHigh, pmRead, if_neg (Nat.not_lt.2 h)]

theorem pmLow_outside {s : State} {a : Word} (h : s.params.pmWords ≤ a.toNat) :
    pmLow s a = .error (.unimplementedPM a) := by
  simp only [pmLow, pmRead, if_neg (Nat.not_lt.2 h)]

theorem xmRead_outside {s : State} {a : Word} (h : xmHas s a = false) : xmRead s a = .error (.unimplementedXM a) :=
  if_neg (Bool.eq_false_iff.1 h)

theorem xmWrite_outside {s : State} {a : Word} (h : xmHas s a = false) (b : Byte) :
    xmWrite s a b = .error (.unimplementedXM a) :=
  if_neg (Bool.eq_false_iff.1 h)

/-! ### Byte transfers by their rule (R381 to R392) -/

/-- An instruction that is the loading skeleton with its source there leaves the skeleton's result. -/
theorem byteLoadResult_of_byteLoad {i : Instr} {o : Ind} {ea1 : DataAddr} {src : Except Fault Byte} {b : Byte}
    {len : Word} {s : State} (ready : ByteReady o ea1 s) (safe : pairSafe o ea1 = true)
    (hexec : exec i s = byteLoad o src len s) (hsrc : src = .ok b) : ByteLoadResult i o ea1 b len s := by
  have hpair : o.post = true → isPairReg o.ptr.pair ea1 = false := by
    intro hpost
    simpa [pairSafe, hpost] using safe
  obtain ⟨t, hload, done⟩ := byteLoad_done o src len s ea1 b ready.inv.dm ready.second hsrc ready.answers ready.answers1
    ready.allowed hpair
  exact ⟨t, hexec.trans hload, done⟩

/-- An instruction that is the storing skeleton with its destination there leaves the skeleton's result. -/
theorem byteStoreResult_of_byteStore {i : Instr} {o : Ind} {ea1 : DataAddr} {dst len : Word} {s : State}
    (ready : ByteReady o ea1 s) (hexec : exec i s = byteStore o dst len s) (hx : xmHas s dst = true) :
    ByteStoreResult i o ea1 dst len s := by
  obtain ⟨t, hstore, done⟩ := byteStore_done o dst len s ea1 ready.inv.xm ready.second ready.answers ready.answers1 hx
    ready.allowed
  exact ⟨t, hexec.trans hstore, done⟩

/-- Settles O27: each of the six is the loading skeleton with a source of its own. -/
theorem byteLoadsResult : Obligations.ByteLoadsResult := by
  intro o ea1 s ready safe
  refine ⟨fun h => ⟨?movhbRA, ?movlbRA⟩, fun cadr h => ⟨?movhbAbs, ?movlbAbs⟩, fun h => ?movxbRA,
    fun xadr h => ?movxbAbs⟩
  case movhbRA => exact byteLoadResult_of_byteLoad ready safe rfl (pmHigh_inside h)
  case movlbRA => exact byteLoadResult_of_byteLoad ready safe rfl (pmLow_inside h)
  case movhbAbs => exact byteLoadResult_of_byteLoad ready safe rfl (pmHigh_inside h)
  case movlbAbs => exact byteLoadResult_of_byteLoad ready safe rfl (pmLow_inside h)
  case movxbRA => exact byteLoadResult_of_byteLoad ready safe rfl (xmRead_inside h)
  case movxbAbs => exact byteLoadResult_of_byteLoad ready safe rfl (xmRead_inside h)

/-- Settles O28: both are the storing skeleton, with RA or the second word as the external address. -/
theorem externalStoreResult : Obligations.ExternalStoreResult := fun _ _ _ ready =>
  ⟨byteStoreResult_of_byteStore ready rfl, fun _ => byteStoreResult_of_byteStore ready rfl⟩

/-! ### A byte out to external memory and back (R390, R392) -/

section
variable {a : DataAddr} (h : 0x100 ≤ a.toNat)
include h

theorem isPeriph_of_le : isPeriph a = false := decide_eq_false (by omega)

theorem isPointerReg_of_le : isPointerReg a = false := by
  simp only [isPointerReg, Bool.and_eq_false_iff, decide_eq_false_iff_not]
  omega

theorem isUndefinedDest_of_le : isUndefinedDest a = false := by
  simp only [isUndefinedDest, isPointerReg_of_le h, Bool.or_false, Bool.and_eq_false_iff, decide_eq_false_iff_not]
  omega

theorem isReadOnly_of_le : isReadOnly a = false := by
  refine Bool.eq_false_iff.2 fun hr => ?_
  simp only [isReadOnly, Bool.or_eq_true, beq_iff_eq] at hr
  obtain (rfl | rfl) | rfl := hr <;> exact absurd h (by decide)

/-- A nibble that goes to data RAM goes to no register of a pair. -/
theorem pairSafe_of_le (o : Ind) : pairSafe o a = true := by
  have hpair : isPairReg o.ptr.pair a = false :=
    Bool.eq_false_iff.2 fun hp => Bool.eq_false_iff.1 (isPointerReg_of_le h) (isPointerReg_of_isPairReg _ _ hp)
  rw [pairSafe, hpair, Bool.and_false, Bool.not_false]

end

theorem extractLsb'_low_append (hi lo : Nibble) : (hi ++ lo : Byte).extractLsb' 0 4 = lo :=
  BitVec.extractLsb'_append_eq_right

theorem extractLsb'_high_append (hi lo : Nibble) : (hi ++ lo : Byte).extractLsb' 4 4 = hi :=
  BitVec.extractLsb'_append_eq_left

/-- The external byte after a store of two RAM nibbles is those nibbles: reading RAM has no effect on a device. -/
theorem ByteStored.byte_of_ram {o : Ind} {ea ea1 : DataAddr} {dst len : Word} {s t : State}
    (stored : ByteStored o ea ea1 dst len s t) (h : 0x100 ≤ ea1.toNat) : t.xmPeek dst = s.peek ea1 ++ s.peek ea := by
  rw [stored.byte, State.peek_dev _ _ _ (isPeriph_of_le h)]

/-- Settles O29: the store leaves the byte at the external address (O28), and the load brings it from there (O27). -/
theorem externalRoundTrip : Obligations.ExternalRoundTrip := by
  intro o o' ea1 ea1' s t xadr ready hx hstore ready' hea hea1 hea' hea1'
  obtain ⟨t', hstore', stored⟩ := (externalStoreResult o ea1 s ready).2 xadr hx
  obtain rfl : t = t' := Host.Outcome.next.inj (hstore.symm.trans hstore')
  have hxt : xmHas t xadr = true := by rwa [xmHas, stored.kept.params]
  obtain ⟨-, -, -, hload⟩ := byteLoadsResult o' ea1' t ready' (pairSafe_of_le hea1' o')
  obtain ⟨u, hu, loaded⟩ := hload xadr hxt
  refine ⟨u, hu, ?_, ?_⟩
  · rw [loaded.low (isPeriph_of_le hea') (isReadOnly_of_le hea') (isUndefinedDest_of_le hea'), stored.byte_of_ram hea1,
      extractLsb'_low_append]
  · rw [loaded.high (isPeriph_of_le hea1') (isReadOnly_of_le hea1') (isUndefinedDest_of_le hea1'),
      stored.byte_of_ram hea1, extractLsb'_high_append]

/-! ### Where byte transfers stop (R74, R76, R80 to R82, R382) -/

theorem byteLoad_pastBank {o : Ind} {s : State} (src : Except Fault Byte) (len : Word)
    (h : s.pairValue o.ptr.pair = 0xFF#8) (hw : s.params.byteXferWrap = .fault) :
    byteLoad o src len s = .fault (.byteTransferWrap (ptrAddr s o.ptr)) := by
  simp only [byteLoad, nextNibble_fault ((offsetOf_ptrAddr s o.ptr).trans h) hw]

theorem byteStore_pastBank {o : Ind} {s : State} (dst len : Word) (h : s.pairValue o.ptr.pair = 0xFF#8)
    (hw : s.params.byteXferWrap = .fault) :
    byteStore o dst len s = .fault (.byteTransferWrap (ptrAddr s o.ptr)) := by
  simp only [byteStore, nextNibble_fault ((offsetOf_ptrAddr s o.ptr).trans h) hw]

/-- A load whose source is not there stops before it writes. -/
theorem byteLoad_noSource {o : Ind} {ea1 : DataAddr} {s : State} {src : Except Fault Byte} {e : Fault} {len : Word}
    (h : SecondNibble s (ptrAddr s o.ptr) ea1) (hsrc : src = .error e) : byteLoad o src len s = .fault e := by
  simp only [byteLoad, nextNibble_eq h, hsrc]

/-- A store whose external destination is not there stops after its reads. -/
theorem byteStore_noDestination {o : Ind} {ea1 : DataAddr} {s : State} {dst len : Word}
    (h : SecondNibble s (ptrAddr s o.ptr) ea1) (ha : s.accessible (ptrAddr s o.ptr) = true)
    (ha1 : s.accessible ea1 = true) (hx : xmHas s dst = false) :
    byteStore o dst len s = .fault (.unimplementedXM dst) := by
  have ha1' (n : Nat) : ({ s with dev := n } : State).accessible ea1 = true :=
    (State.accessible_congr (s := s) rfl ea1).trans ha1
  have hx' (n : Nat) : xmHas { s with dev := n } dst = false := hx
  simp only [byteStore, nextNibble_eq h, dmRead_eq, ha, ha1', if_true, xmWrite_outside (hx' _)]

/-- In state `s` the instruction is the loading skeleton with its source there (R384 to R390). -/
def LoadsByte (o : Ind) (len : Word) (s : State) (i : Instr) : Prop :=
  ∃ b, exec i s = byteLoad o (.ok b) len s

theorem LoadsByte.of_source {o : Ind} {len : Word} {s : State} {i : Instr} {src : Except Fault Byte} {b : Byte}
    (hexec : exec i s = byteLoad o src len s) (hsrc : src = .ok b) : LoadsByte o len s i :=
  ⟨b, hsrc ▸ hexec⟩

theorem loadsByte_romRA (o : Ind) {s : State} (h : s.ra.toNat < s.params.pmWords) :
    ∀ i ∈ [Instr.movhbRA o, .movlbRA o], LoadsByte o 1 s i :=
  List.forall_mem_cons.2 ⟨.of_source rfl (pmHigh_inside h),
    List.forall_mem_singleton.2 (.of_source rfl (pmLow_inside h))⟩

theorem loadsByte_romAbs (o : Ind) {s : State} {a : Word} (h : a.toNat < s.params.pmWords) :
    ∀ i ∈ [Instr.movhbAbs o a, .movlbAbs o a], LoadsByte o 2 s i :=
  List.forall_mem_cons.2 ⟨.of_source rfl (pmHigh_inside h),
    List.forall_mem_singleton.2 (.of_source rfl (pmLow_inside h))⟩

theorem loadsByte_externalRA (o : Ind) {s : State} (h : xmHas s s.ra = true) : LoadsByte o 1 s (.movxbLoadRA o) :=
  .of_source rfl (xmRead_inside h)

theorem loadsByte_externalAbs (o : Ind) {s : State} {a : Word} (h : xmHas s a = true) :
    LoadsByte o 2 s (.movxbLoadAbs o a) :=
  .of_source rfl (xmRead_inside h)

theorem LoadsByte.stops {o : Ind} {ea1 d : DataAddr} {len : Word} {s : State} {i : Instr} (hi : LoadsByte o len s i)
    (h : SecondNibble s (ptrAddr s o.ptr) ea1) (silent : FirstSilent s (ptrAddr s o.ptr) ea1 d) :
    exec i s = .fault (noAnswer d) := by
  obtain ⟨b, hexec⟩ := hi
  exact hexec.trans (byteLoad_silent b len h silent)

/-- Settles O30, in the order in which a transfer can stop: the second address is formed, the source of a load is read,
the two data addresses are accessed, and last the destination of a store is written. -/
theorem byteTransferStops : Obligations.ByteTransferStops := by
  refine ⟨fun o a s h hw => ?pastBank, fun o ea1 s h => ⟨?romRA, ?romAbs, ?externalRA, ?externalAbs, ?destination⟩,
    fun o ea1 s d a h silent => ?silent⟩
  case pastBank =>
    simp only [List.forall_mem_cons, List.not_mem_nil, false_implies, implies_true, and_true]
    exact ⟨byteLoad_pastBank _ _ h hw, byteLoad_pastBank _ _ h hw, byteLoad_pastBank _ _ h hw,
      byteLoad_pastBank _ _ h hw, byteLoad_pastBank _ _ h hw, byteLoad_pastBank _ _ h hw, byteStore_pastBank _ _ h hw,
      byteStore_pastBank _ _ h hw⟩
  case romRA =>
    exact fun out => ⟨byteLoad_noSource h (pmHigh_outside out), byteLoad_noSource h (pmLow_outside out)⟩
  case romAbs =>
    exact fun _ out => ⟨byteLoad_noSource h (pmHigh_outside out), byteLoad_noSource h (pmLow_outside out)⟩
  case externalRA => exact fun out => byteLoad_noSource h (xmRead_outside out)
  case externalAbs => exact fun _ out => byteLoad_noSource h (xmRead_outside out)
  case destination =>
    exact fun ha ha1 => ⟨byteStore_noDestination h ha ha1, fun _ => byteStore_noDestination h ha ha1⟩
  case silent =>
    exact ⟨List.forall_mem_cons.2 ⟨byteStore_silent _ _ h silent,
        List.forall_mem_singleton.2 (byteStore_silent _ _ h silent)⟩,
      fun src => (loadsByte_externalRA o src).stops h silent,
      fun src => (loadsByte_externalAbs o src).stops h silent,
      fun src i hi => (loadsByte_romRA o src i hi).stops h silent,
      fun src i hi => (loadsByte_romAbs o src i hi).stops h silent⟩

/-! ### Two addresses next to each other (R382) -/

theorem offsetOf_toNat (a : DataAddr) : (offsetOf a).toNat = a.toNat % 256 := by
  simp [offsetOf]

/-- The second address follows the first, but for a wrap to the start of the bank. -/
theorem SecondNibble.toNat_eq_or {s : State} {ea ea1 : DataAddr} (h : SecondNibble s ea ea1) :
    ea1.toNat = (ea.toNat + 1) % 0x1000 ∨ (ea.toNat % 0x100 = 0xFF ∧ ea1.toNat % 0x100 = 0) := by
  have hsucc : (ea + 1).toNat = (ea.toNat + 1) % 0x1000 := BitVec.toNat_add ea 1
  obtain ⟨-, rfl⟩ | ⟨hoff, -, rfl⟩ | ⟨-, -, rfl⟩ := h
  · exact .inl hsucc
  · refine .inr ⟨(offsetOf_toNat ea).symm.trans (congrArg BitVec.toNat hoff), ?_⟩
    rw [toNat_append_fields]
    exact Nat.mul_add_mod_self_right _ _ 0
  · exact .inl hsucc

/-- Below 100H and past the device every address is a core register, which always answers. -/
theorem accessible_of_register {a : DataAddr} (s : State) (hp : isPeriph a = false) (h : a.toNat < 0x100) :
    s.accessible a = true := by
  obtain hc | hc | ⟨r, hc⟩ := dmCell_cases a
  · exact absurd ((dmCell_eq_ram_iff a).1 hc) (Nat.not_le.2 h)
  · exact absurd ((dmCell_eq_periph_iff a).1 hc) (Bool.eq_false_iff.1 hp)
  · simp only [State.accessible, hc]

/-- A read past the device's addresses leaves the state as it was. -/
theorem dmRead_noDevice {s : State} {a : DataAddr} (ha : s.accessible a = true) (hp : isPeriph a = false) :
    dmRead s a = .ok (s.peek a, s) := by
  rw [dmRead_eq, if_pos ha, devRead, hp]
  rfl

/-- The two addresses of a transfer in the case that R93 prohibits: both are core registers, and the second is one of
0F9H..0FEH too or the read-only 0FFH. -/
structure PostRegisters (ea ea1 : DataAddr) : Prop where
  first : isPointerReg ea = true
  periph : isPeriph ea = false
  periph1 : isPeriph ea1 = false
  below : ea.toNat < 0x100
  below1 : ea1.toNat < 0x100
  second : isPointerReg ea1 = true ∨ isReadOnly ea1 = true

theorem PostRegisters.of_prohibited {o : Ind} {ea1 : DataAddr} {s : State} (h : SecondNibble s (ptrAddr s o.ptr) ea1)
    (hU : prohibitedPost (.ind o) (ptrAddr s o.ptr) = true) : PostRegisters (ptrAddr s o.ptr) ea1 := by
  have hfirst : isPointerReg (ptrAddr s o.ptr) = true := (Bool.and_eq_true_iff.1 hU).2
  have hrange : 0x0F9 ≤ (ptrAddr s o.ptr).toNat ∧ (ptrAddr s o.ptr).toNat ≤ 0x0FE := by
    simpa only [isPointerReg, Bool.and_eq_true, decide_eq_true_eq] using hfirst
  have hsucc : ea1.toNat = (ptrAddr s o.ptr).toNat + 1 := by
    have := h.toNat_eq_or
    omega
  refine ⟨hfirst, decide_eq_false (by omega), decide_eq_false (by omega), by omega, by omega, ?_⟩
  by_cases hlast : ea1.toNat = 0x0FF
  · obtain rfl : ea1 = 0x0FF#12 := BitVec.eq_of_toNat_eq hlast
    exact .inr rfl
  · left
    simp only [isPointerReg, Bool.and_eq_true, decide_eq_true_eq]
    omega

/-- A transfer that puts its second nibble into a register of the pair has its first address past the device's. -/
theorem isPeriph_of_second_isPairReg {s : State} {p : Pair} {ea ea1 : DataAddr} (h : SecondNibble s ea ea1)
    (hpair : isPairReg p ea1 = true) : isPeriph ea = false := by
  have hrange : 0x0F9 ≤ ea1.toNat ∧ ea1.toNat ≤ 0x0FE := by
    simpa only [isPointerReg, Bool.and_eq_true, decide_eq_true_eq] using isPointerReg_of_isPairReg p ea1 hpair
  have := h.toNat_eq_or
  exact decide_eq_false (by omega)

/-! ### Byte transfers with an undefined register result (R93, R383) -/

/-- What the two destination nibbles of a transfer leave, before the post-increment. -/
structure HalvesDone (s t : State) (ea ea1 : DataAddr) : Prop where
  a : t.a = s.a
  c : t.c = s.c
  z : t.z = s.z
  frame : ∀ d, isPeriph d = false → ((d ≠ ea ∧ d ≠ ea1) ∨ isReadOnly d = true) → t.peek d = s.peek d
  dev : isPeriph ea = false → isPeriph ea1 = false → t.dev = s.dev

/-- The loading skeleton with its source there and both addresses answering: two nibbles, the post-increment, PC. -/
theorem byteLoad_eq {o : Ind} {ea1 : DataAddr} {s : State} (b : Byte) (len : Word)
    (hw : Mem.wf dmFill 0x100 0x1000 s.dm = true) (h : SecondNibble s (ptrAddr s o.ptr) ea1)
    (ha : s.accessible (ptrAddr s o.ptr) = true) (ha1 : s.accessible ea1 = true) :
    ∃ u, byteLoad o (.ok b) len s
        = .next ((afterByte o (ptrAddr s o.ptr) (isPairReg o.ptr.pair ea1) u).setPc (s.pc + len))
      ∧ HalvesDone s u (ptrAddr s o.ptr) ea1 := by
  obtain ⟨s1, e1, d1⟩ := dmWriteByteHalf_done s (ptrAddr s o.ptr) (lowNibble b) ha hw
  obtain ⟨s2, e2, d2⟩ := dmWriteByteHalf_done s1 ea1 (highNibble b)
    ((State.accessible_congr d1.kept.params ea1).trans ha1) d1.wf
  refine ⟨s2, by simp only [byteLoad, nextNibble_eq h, e1, e2], d2.a.trans d1.a, d2.c.trans d1.c, d2.z.trans d1.z,
    ?frame, ?dev⟩
  case frame =>
    intro d hd hne
    exact (d2.frame d hd (hne.imp_left And.right)).trans (d1.frame d hd (hne.imp_left And.left))
  case dev =>
    intro hp hp1
    rw [d2.dev, d1.dev, devWrite, devWrite, hp, hp1]
    rfl

theorem afterByte_prohibited {o : Ind} {ea : DataAddr} (hpost : o.post = true) (hp : isPointerReg ea = true) (p : Bool)
    (s : State) : afterByte o ea p s = s.scramble := by
  simp only [afterByte, hpost, hp, if_true]

theorem afterByte_pairDrawn {o : Ind} {ea : DataAddr} (hpost : o.post = true) (hp : isPointerReg ea = false)
    (s : State) : afterByte o ea true s = (s.drawPair o.ptr.pair).setG (decide (0xFF < (offsetOf ea).toNat + 2)) := by
  simp only [afterByte, hpost, hp, if_true, Bool.false_eq_true, if_false]

/-- The prohibited case of R93 in a transfer into data memory: it completes, with anything in the ten items of U1. -/
theorem byteLoad_scrambled {o : Ind} {ea1 : DataAddr} {s : State} (b : Byte) (len : Word) (inv : Invariant s)
    (h : SecondNibble s (ptrAddr s o.ptr) ea1) (hU : prohibitedPost (.ind o) (ptrAddr s o.ptr) = true) :
    ∃ t, byteLoad o (.ok b) len s = .next t ∧ Scrambled len s t ∧ t.dev = s.dev ∧ t.xm = s.xm := by
  have regs := PostRegisters.of_prohibited h hU
  obtain ⟨u, hload, done⟩ := byteLoad_eq b len inv.dm h (accessible_of_register s regs.periph regs.below)
    (accessible_of_register s regs.periph1 regs.below1)
  rw [afterByte_prohibited (Bool.and_eq_true_iff.1 hU).1 regs.first] at hload
  have kept := byteLoad_kept hload
  refine ⟨_, hload, ⟨rfl, ?frame, kept.core⟩, done.dev regs.periph regs.periph1, kept.xm⟩
  intro d hd hnot
  rw [State.peek_setPc, State.peek_scramble _ _ hnot]
  have hne : d ≠ ptrAddr s o.ptr := by
    rintro rfl
    exact Bool.eq_false_iff.1 hnot regs.first
  refine done.frame d hd ?_
  by_cases hd1 : d = ea1
  · subst hd1
    exact .inr (regs.second.resolve_left (Bool.eq_false_iff.1 hnot))
  · exact .inl ⟨hne, hd1⟩

/-- The prohibited case of R93 in a transfer out of data memory: the byte arrives, and the ten items of U1 hold
anything. -/
theorem byteStore_scrambled {o : Ind} {ea1 : DataAddr} {s : State} {dst : Word} (len : Word) (inv : Invariant s)
    (h : SecondNibble s (ptrAddr s o.ptr) ea1) (hU : prohibitedPost (.ind o) (ptrAddr s o.ptr) = true)
    (hx : xmHas s dst = true) :
    ∃ t, byteStore o dst len s = .next t ∧ Scrambled len s t ∧ t.dev = s.dev
      ∧ t.xmPeek dst = s.peek ea1 ++ s.peek (ptrAddr s o.ptr) ∧ ∀ d, d ≠ dst → t.xmPeek d = s.xmPeek d := by
  have regs := PostRegisters.of_prohibited h hU
  have hlow := dmRead_noDevice (accessible_of_register s regs.periph regs.below) regs.periph
  have hhigh := dmRead_noDevice (accessible_of_register s regs.periph1 regs.below1) regs.periph1
  have hstore : byteStore o dst len s = .next (State.setPc (State.scramble { s with
      xm := Mem.write xmFill s.xm dst.toNat (s.peek ea1 ++ s.peek (ptrAddr s o.ptr)) }) (s.pc + len)) := by
    simp only [byteStore, nextNibble_eq h, hlow, hhigh, xmWrite, if_pos hx,
      afterByte_prohibited (Bool.and_eq_true_iff.1 hU).1 regs.first]
  obtain ⟨core, -⟩ := byteStore_kept hstore
  refine ⟨_, hstore, ⟨rfl, ?frame, core⟩, rfl, Mem.read_write_same inv.xm, fun d hd => ?xmFrame⟩
  case frame =>
    intro d _ hnot
    rw [State.peek_setPc, State.peek_scramble _ _ hnot, State.peek_xm]
  case xmFrame => exact Mem.read_write_ne fun he => hd (BitVec.eq_of_toNat_eq he)

/-- What a transfer leaves that puts its second nibble into a register of the pair it increments: anything in the pair
and at its first address, G from the pair before the instruction, and all else as it was (U2). -/
def PairLeftOpen (o : Ind) (s : State) (len : Word) (t : State) : Prop :=
  t.a = s.a ∧ t.c = s.c ∧ t.z = s.z ∧ t.pc = s.pc + len
    ∧ (t.g = true ↔ 0xFF < (s.pairValue o.ptr.pair).toNat + 2) ∧ t.xm = s.xm ∧ t.dev = s.dev ∧ CoreKept s t
    ∧ ∀ d, isPeriph d = false → d ≠ ptrAddr s o.ptr → isPairReg o.ptr.pair d = false → t.peek d = s.peek d

theorem State.peek_drawPair (s : State) (p : Pair) {d : DataAddr} (hd : isPairReg p d = false) :
    (s.drawPair p).peek d = s.peek d :=
  (State.peek_draws _ _ d).trans (State.peek_setPair s p _ d hd)

theorem byteLoad_pairLeftOpen {o : Ind} {ea1 : DataAddr} {s : State} (b : Byte) (len : Word)
    (ready : ByteReady o ea1 s) (hopen : pairSafe o ea1 = false) :
    ∃ t, byteLoad o (.ok b) len s = .next t ∧ PairLeftOpen o s len t := by
  obtain ⟨hpost, hpair⟩ : o.post = true ∧ isPairReg o.ptr.pair ea1 = true := by
    simpa only [pairSafe, Bool.not_eq_false', Bool.and_eq_true] using hopen
  have hnot : isPointerReg (ptrAddr s o.ptr) = false := by
    simpa only [prohibitedPost, Obj.isPost, hpost, Bool.true_and] using ready.allowed
  have hp := isPeriph_of_second_isPairReg ready.second hpair
  have hp1 := isPeriph_of_isPointerReg (isPointerReg_of_isPairReg _ _ hpair)
  obtain ⟨u, hload, done⟩ := byteLoad_eq b len ready.inv.dm ready.second ready.answers ready.answers1
  rw [hpair, afterByte_pairDrawn hpost hnot, offsetOf_ptrAddr] at hload
  have kept := byteLoad_kept hload
  refine ⟨_, hload, ?_, ?_, ?_, rfl, decide_eq_true_iff, kept.xm, ?_, kept.core, ?frame⟩
  · simpa using done.a
  · simpa using done.c
  · simpa using done.z
  · simpa using done.dev hp hp1
  case frame =>
    intro d hd hne hnp
    have hne1 : d ≠ ea1 := by
      rintro rfl
      exact Bool.eq_false_iff.1 hnp hpair
    rw [State.peek_setPc, State.peek_setG, State.peek_drawPair u _ hnp]
    exact done.frame d hd (.inl ⟨hne, hne1⟩)

theorem LoadsByte.scrambles {o : Ind} {ea1 : DataAddr} {len : Word} {s : State} {i : Instr} (hi : LoadsByte o len s i)
    (inv : Invariant s) (h : SecondNibble s (ptrAddr s o.ptr) ea1)
    (hU : prohibitedPost (.ind o) (ptrAddr s o.ptr) = true) :
    ∃ t, exec i s = .next t ∧ Scrambled len s t ∧ t.dev = s.dev ∧ t.xm = s.xm := by
  obtain ⟨b, hexec⟩ := hi
  exact hexec ▸ byteLoad_scrambled b len inv h hU

theorem LoadsByte.leavesPairOpen {o : Ind} {ea1 : DataAddr} {len : Word} {s : State} {i : Instr}
    (hi : LoadsByte o len s i) (ready : ByteReady o ea1 s) (hopen : pairSafe o ea1 = false) :
    ∃ t, exec i s = .next t ∧ PairLeftOpen o s len t := by
  obtain ⟨b, hexec⟩ := hi
  exact hexec ▸ byteLoad_pairLeftOpen b len ready hopen

/-- Settles O31: in both cases every load is the loading skeleton with its source there, and each store the storing
one. -/
theorem byteTransferUndefined : Obligations.ByteTransferUndefined := by
  refine ⟨fun o ea1 s a inv h hU => ?prohibited, fun o ea1 s a ready hopen => ?pair⟩
  case prohibited =>
    exact ⟨fun src i hi => (loadsByte_romAbs o src i hi).scrambles inv h hU,
      fun src i hi => (loadsByte_romRA o src i hi).scrambles inv h hU,
      fun hx => ⟨(loadsByte_externalAbs o hx).scrambles inv h hU, byteStore_scrambled 2 inv h hU hx⟩,
      fun hx => ⟨(loadsByte_externalRA o hx).scrambles inv h hU, byteStore_scrambled 1 inv h hU hx⟩⟩
  case pair =>
    exact ⟨fun src i hi => (loadsByte_romAbs o src i hi).leavesPairOpen ready hopen,
      fun src i hi => (loadsByte_romRA o src i hi).leavesPairOpen ready hopen,
      fun hx => (loadsByte_externalAbs o hx).leavesPairOpen ready hopen,
      fun hx => (loadsByte_externalRA o hx).leavesPairOpen ready hopen⟩

end Sys2Proof.Machine
end

section
/-! SUPPORT. The statements of 46_stack_flag.md: PUSH and POP, where they complete and what they load, and the flag
instructions FCLR and FSET. -/

namespace Sys2Proof.Machine

/-! ### The register stack where it has a level (R410 to R413) -/

theorem framePush_room {s : State} (h : s.regRoom) (f : Frame) :
    framePush s f = .ok { s with regStack := s.regStack.set s.rsp.toNat f s.rsp.isLt, rsp := s.rsp + 1 } :=
  if_neg ((regRoom_iff s).1 h)

theorem framePop_level {s : State} (h : s.regLevel) : framePop s = .ok (s.topFrame, { s with rsp := s.rsp - 1 }) :=
  if_neg ((regLevel_iff s).1 h)

theorem pushFrame_room {s : State} (h : s.regRoom) (f : Frame) :
    pushFrame f s = .next { s with
      regStack := s.regStack.set s.rsp.toNat f s.rsp.isLt, rsp := s.rsp + 1, pc := s.pc + 1 } := by
  simp only [pushFrame, framePush_room h, State.setPc]

theorem exec_popHL_level {s : State} (h : s.regLevel) :
    exec .popHL s = .next ((State.loadHL { s with rsp := s.rsp - 1 } s.topFrame).setPc (s.pc + 1)) := by
  simp only [exec, execPopHL, framePop_level h]

theorem exec_popXY_level {s : State} (h : s.regLevel) :
    exec .popXY s = .next ((State.loadXY { s with rsp := s.rsp - 1 } s.topFrame).setPc (s.pc + 1)) := by
  simp only [exec, execPopXY, framePop_level h]

/-! ### A POP that matches its PUSH (R412, R413) -/

theorem exec_popHL_matched {s : State} (level : s.regLevel) {g c z : Bool} {a h l : Nibble}
    (top : s.topFrame = .hl g c z a h l) :
    exec .popHL s = .next { s with
      g := g, c := c, z := z, a := a, h := h, l := l, rsp := s.rsp - 1, pc := s.pc + 1 } := by
  simp only [exec_popHL_level level, top, State.loadHL, State.setPc]

theorem exec_popXY_matched {s : State} (level : s.regLevel) {ebr cbr x y : Nibble}
    (top : s.topFrame = .xy ebr cbr x y) :
    exec .popXY s = .next { s with ebr := ebr, cbr := cbr, x := x, y := y, rsp := s.rsp - 1, pc := s.pc + 1 } := by
  simp only [exec_popXY_level level, top, State.loadXY, State.setPc]

/-- Settles O32: a PUSH is one save with room and without, and a POP of its own kind of frame loads that frame. -/
theorem pushPopResult : Obligations.PushPopResult :=
  ⟨⟨rfl, rfl, rfl, rfl⟩,
    fun _ hrsp hw => ⟨pushFrame_full hrsp hw _, pushFrame_full hrsp hw _⟩,
    fun _ room => ⟨pushFrame_room room _, pushFrame_room room _⟩,
    fun _ level => ⟨fun _ _ _ _ _ _ => exec_popHL_matched level, fun _ _ _ _ => exec_popXY_matched level⟩⟩

/-! ### A POP of another frame (R414) -/

/-- A load from a frame of the other kind draws values for its own destinations and keeps every other item. -/
theorem loadHL_mismatched (s : State) {f : Frame} (hf : ∀ g c z a h l, f ≠ .hl g c z a h l) :
    s.loadHL f = { s with
      g := (s.loadHL f).g, c := (s.loadHL f).c, z := (s.loadHL f).z, a := (s.loadHL f).a, h := (s.loadHL f).h,
      l := (s.loadHL f).l, draws := (s.loadHL f).draws } := by
  cases f with
  | unwritten | xy => rfl
  | hl g c z a h l => exact absurd rfl (hf g c z a h l)

theorem loadXY_mismatched (s : State) {f : Frame} (hf : ∀ ebr cbr x y, f ≠ .xy ebr cbr x y) :
    s.loadXY f = { s with
      ebr := (s.loadXY f).ebr, cbr := (s.loadXY f).cbr, x := (s.loadXY f).x, y := (s.loadXY f).y,
      draws := (s.loadXY f).draws } := by
  cases f with
  | unwritten | hl => rfl
  | xy ebr cbr x y => exact absurd rfl (hf ebr cbr x y)

/-- Settles O33: the load keeps all but its destinations, whatever is drawn, and PC is set over it. -/
theorem popMismatched : Obligations.PopMismatched := fun _ level =>
  ⟨fun other => ⟨_, exec_popHL_level level, congrArg (State.setPc · _) (loadHL_mismatched _ other)⟩,
    fun other => ⟨_, exec_popXY_level level, congrArg (State.setPc · _) (loadXY_mismatched _ other)⟩⟩

/-! ### POP after PUSH (R410 to R413) -/

/-- After a PUSH the level below RSP is there, under either policy, and holds the frame pushed; so it is in every later
state with the same register stack. -/
theorem top_of_pushFrame {s t u : State} {f : Frame} (room : s.regRoom) (push : pushFrame f s = .next t)
    (hparams : u.params = t.params) (hstack : u.regStack = t.regStack) (hrsp : u.rsp = t.rsp) :
    u.regLevel ∧ u.topFrame = f ∧ u.rsp - 1 = s.rsp := by
  cases (pushFrame_room room f).symm.trans push
  refine ⟨?level, ?top, ?rsp⟩
  case level =>
    refine room.imp (fun hlast hzero => hlast ?_) (fun hwrap => hparams ▸ hwrap)
    rw [hrsp] at hzero
    bv_omega
  case top => simp only [State.topFrame, hstack, hrsp, BitVec.add_sub_cancel, Vector.getElem_set_self]
  case rsp => rw [hrsp, BitVec.add_sub_cancel]

/-- Settles O34: the POP finds the frame that the PUSH left. -/
theorem pushPopRoundTrip : Obligations.PushPopRoundTrip := by
  intro s t u room _ hparams hstack hrsp
  constructor
  · intro push
    obtain ⟨level, top, back⟩ := top_of_pushFrame room push hparams hstack hrsp
    exact ⟨_, exec_popHL_matched level top, back, rfl, rfl, rfl, rfl, rfl, rfl⟩
  · intro push
    obtain ⟨level, top, back⟩ := top_of_pushFrame room push hparams hstack hrsp
    exact ⟨_, exec_popXY_matched level top, back, rfl, rfl, rfl, rfl⟩

/-! ### FCLR and FSET (R416 to R423) -/

/-- Settles O35: the words and effects are written out in the encoder and in the meanings; 0005H and 0009H are among the
words the nX-4/250 lacks. -/
theorem flagResult : Obligations.FlagResult :=
  ⟨⟨rfl, rfl, rfl, rfl, rfl, rfl, rfl, rfl⟩,
    fun _ i => ⟨decode_nX250_ne_ok_iff.2 (.inr (.inl rfl)) i, decode_nX250_ne_ok_iff.2 (.inr (.inr (.inl rfl))) i⟩,
    fun _ => ⟨rfl, rfl, rfl, rfl, rfl, rfl, rfl, rfl⟩⟩

end Sys2Proof.Machine
end

section
/-! SUPPORT. The statements of 47_branch_call.md: jumps, branches, calls and returns, the stops among them and beside them,
and what a return finds of a call or of an interrupt entry. -/

namespace Sys2Proof.Machine

/-! ### Jumps and branches (R433 to R444) -/

/-- PC + A + 1, in 16 bits, is the exact sum narrowed. -/
theorem pcPlusA_eq (pc : Word) (a : Nibble) : pc + a.setWidth 16 + 1 = BitVec.ofNat 16 (pc.toNat + a.toNat + 1) := by
  simp only [BitVec.ofNat_add, BitVec.ofNat_toNat, BitVec.setWidth_eq, BitVec.ofNat_eq_ofNat]

/-- Settles O37: each sets PC; the relative targets are the exact sums narrowed, and the words are those of O8. -/
theorem branchResult : Obligations.BranchResult :=
  ⟨⟨fun _ => rfl, fun d => congrArg (fun w : Word => [w]) (encBr8_eq_pattern 0b00 0b1 d), rfl⟩,
    fun s => ⟨fun _ => rfl,
      fun d => congrArg (fun w => Host.Outcome.next (s.setPc w)) (relTarget_eq s.pc d),
      congrArg (fun w => Host.Outcome.next (s.setPc w)) (pcPlusA_eq s.pc s.a)⟩⟩

/-- An instruction of format BR8 that is `branchIf` on a condition is a conditional branch on it. -/
theorem branchOn_of_branchIf {mk : BitVec 8 → Instr} {cc : BitVec 2} {b : BitVec 1} {cond : State → Bool}
    (hword : ∀ d, encode (mk d) = [encBr8 cc.toNat b.toNat d]) (hexec : ∀ d s, exec (mk d) s = branchIf (cond s) d s) :
    BranchOn mk cc b cond := by
  refine fun d => ⟨?word, fun s => ?run⟩
  case word => rw [hword, encBr8_eq_pattern]
  case run => rw [hexec, branchIf_eq]

/-- Settles O38: each branch is `branchIf` on the condition of its rule, under the word of its row. -/
theorem conditionalBranchResult : Obligations.ConditionalBranchResult := by
  have on {mk cc b cond} := @branchOn_of_branchIf mk cc b cond
  exact ⟨on (fun _ => rfl) fun _ _ => rfl, on (fun _ => rfl) fun _ _ => rfl, on (fun _ => rfl) fun _ _ => rfl,
    on (fun _ => rfl) fun _ _ => rfl, on (fun _ => rfl) fun _ _ => rfl, on (fun _ => rfl) fun _ _ => rfl,
    on (fun _ => rfl) fun _ _ => rfl, on (fun _ => rfl) fun _ _ => rfl, on (fun _ => rfl) fun _ _ => rfl,
    on (fun _ => rfl) fun _ _ => rfl, on (fun _ => rfl) fun _ _ => rfl⟩

/-! ### The target inside a page (R431) -/

theorem atPageEdge_iff (pc : Word) : pc.extractLsb' 0 12 = 0xFFF#12 ↔ pc.toNat % 4096 = 4095 := by
  rw [← BitVec.toNat_inj, BitVec.extractLsb'_toNat, Nat.shiftRight_zero]
  rfl

/-- The page bits of a word are its page number. -/
theorem pageBits_eq {w : Word} {page : Nibble} (h : page.toNat = w.toNat / 4096) : w.extractLsb' 12 4 = page := by
  apply BitVec.eq_of_toNat_eq
  simp only [BitVec.extractLsb'_toNat, Nat.shiftRight_eq_div_pow]
  omega

/-- The word after the last word of a page is of the next page, the last page followed by the first. -/
theorem pageBits_next {pc : Word} {page : Nibble} (hedge : pc.toNat % 4096 = 4095)
    (h : page.toNat = (pc.toNat / 4096 + 1) % 16) : (pc + 1).extractLsb' 12 4 = page := by
  refine pageBits_eq ?_
  rw [h]
  bv_omega

theorem pageTarget_inside {s : State} (h : s.pc.toNat % 4096 ≠ 4095) (a : BitVec 12) :
    pageTarget s a = .ok (s.pc.extractLsb' 12 4 ++ a) :=
  if_neg (mt (atPageEdge_iff _).1 h)

theorem pageTarget_own {s : State} (h : s.pc.toNat % 4096 = 4095) (hp : s.params.pageBitsAtFff = .own) (a : BitVec 12) :
    pageTarget s a = .ok (s.pc.extractLsb' 12 4 ++ a) := by
  simp only [pageTarget, (atPageEdge_iff _).2 h, if_true, hp]

theorem pageTarget_next {s : State} (h : s.pc.toNat % 4096 = 4095) (hp : s.params.pageBitsAtFff = .next) (a : BitVec 12) :
    pageTarget s a = .ok ((s.pc + 1).extractLsb' 12 4 ++ a) := by
  simp only [pageTarget, (atPageEdge_iff _).2 h, if_true, hp]

theorem pageTarget_refuse {s : State} (h : s.pc.toNat % 4096 = 4095) (hp : s.params.pageBitsAtFff = .refuse)
    (a : BitVec 12) : pageTarget s a = .error (.pageEdgeJump s.pc) := by
  simp only [pageTarget, (atPageEdge_iff _).2 h, if_true, hp]

/-! ### What JMP cadr12 and the calls do by their target (R432, R446, R447) -/

theorem exec_jmp_ok {s : State} {a : BitVec 12} {w : Word} (h : pageTarget s a = .ok w) :
    exec (.jmp a) s = .next { s with pc := w } := by
  simp only [exec, execJmp, h, State.setPc]

theorem exec_jmp_error {s : State} {a : BitVec 12} {e : Fault} (h : pageTarget s a = .error e) :
    exec (.jmp a) s = .fault e := by
  simp only [exec, execJmp, h]

theorem exec_cal_ok {s : State} {a : BitVec 12} {w : Word} (room : s.callRoom) (h : pageTarget s a = .ok w) :
    exec (.cal a) s = .next { s.withCallLevel s.pc with pc := w } := by
  simp only [exec, execCal, callPush_room room, h, State.setPc]

theorem exec_cal_error {s : State} {a : BitVec 12} {e : Fault} (room : s.callRoom) (h : pageTarget s a = .error e) :
    exec (.cal a) s = .fault e := by
  simp only [exec, execCal, callPush_room room, h]

theorem exec_lcal_room {s : State} (room : s.callRoom) (a : Word) :
    exec (.lcal a) s = .next { s.withCallLevel (s.pc + 1) with pc := a } := by
  simp only [exec, execLcal, callPush_room room, State.setPc]

/-- Settles O40: under each premise the target is the page named, and both instructions go there. -/
theorem pageJumpResult : Obligations.PageJumpResult := by
  intro s a page h
  have target : pageTarget s a = .ok (page ++ a) := by
    obtain ⟨inside, hpage⟩ | ⟨edge, own, hpage⟩ | ⟨edge, next, hpage⟩ := h
    · rw [pageTarget_inside inside, pageBits_eq hpage]
    · rw [pageTarget_own edge own, pageBits_eq hpage]
    · rw [pageTarget_next edge next, pageBits_next edge hpage]
  exact ⟨exec_jmp_ok target, fun room => exec_cal_ok room target⟩

/-! ### The stops at a page edge, of MSA and of HALT (R431, R483, R484) -/

theorem exec_msa_silent {s : State} (h : s.params.hasMelody = false) (a : Word) :
    exec (.msa a) s = .fault (.melodyAbsent s.pc) :=
  if_neg (Bool.eq_false_iff.1 h)

theorem exec_halt_error {s : State} {e : Fault} (h : haltCheck s = .error e) : exec .halt s = .fault e := by
  simp only [exec, execHalt, h]

theorem haltCheck_withoutNop {s : State} (hcheck : s.params.haltNopCheck = .refuse)
    (hin : (s.pc + 1).toNat < s.params.pmWords) (hnop : s.pmPeek (s.pc + 1) ≠ 0x0000#16) :
    haltCheck s = .error (.haltWithoutNop s.pc) := by
  simp only [haltCheck, hcheck, pmRead_inside hin, hnop, if_false]

theorem haltCheck_outside {s : State} (hcheck : s.params.haltNopCheck = .refuse)
    (hout : s.params.pmWords ≤ (s.pc + 1).toNat) : haltCheck s = .error (.unimplementedPM (s.pc + 1)) := by
  simp only [haltCheck, hcheck, pmRead_outside hout]

/-- Settles O41: CAL has saved its address when its target is refused, so it stops there as JMP does; HALT stops by its look
at the next word. -/
theorem refusedPrograms : Obligations.RefusedPrograms := fun _ =>
  ⟨fun edge refuse a =>
      ⟨exec_jmp_error (pageTarget_refuse edge refuse a), fun room => exec_cal_error room (pageTarget_refuse edge refuse a)⟩,
    exec_msa_silent,
    fun check hin hnop => exec_halt_error (haltCheck_withoutNop check hin hnop),
    fun check hout => exec_halt_error (haltCheck_outside check hout)⟩

/-! ### LCAL and the returns (R447, R450 to R455) -/

theorem returnWith_level {s : State} (level : s.callLevel) (mie : Bool) :
    returnWith mie s = .next { s with sp := s.sp - 1, pc := s.topCall + 1, mie := mie } := by
  simp only [returnWith, callReturn_level level]

/-- Settles O42: the stops are those of the call stack's limits, and each return is the same restore with its own MIE. -/
theorem longCallAndReturnResult : Obligations.LongCallAndReturnResult := by
  refine ⟨⟨fun _ => rfl, rfl, rfl, rfl⟩, fun s hw => ?stops, fun _ a room => exec_lcal_room room a, fun s level => ?returns⟩
  case stops =>
    obtain ⟨full, empty, -⟩ := stackLimits s hw
    exact ⟨fun hsp a => (full hsp 0 a).2, empty⟩
  case returns =>
    exact ⟨returnWith_level level s.mie, returnWith_level level true, returnWith_level level s.mieSaved⟩

/-! ### A return that finds what was saved (R448) -/

/-- After a save the level below SP is there, under either policy, and holds the value saved; so it is in every later state
with the same call stack. -/
theorem top_of_withCallLevel {s u : State} {v : Word} (room : s.callRoom) (hparams : u.params = s.params)
    (hstack : u.callStack = (s.withCallLevel v).callStack) (hsp : u.sp = s.sp + 1) :
    u.callLevel ∧ u.topCall = v ∧ u.sp - 1 = s.sp := by
  refine ⟨?level, ?top, ?sp⟩
  case level =>
    refine room.imp (fun hlast hzero => hlast ?_) (fun hwrap => hparams ▸ hwrap)
    rw [hsp] at hzero
    bv_omega
  case top =>
    simp only [State.topCall, hstack, State.withCallLevel, hsp, BitVec.add_sub_cancel, Vector.getElem_set_self]
  case sp => rw [hsp, BitVec.add_sub_cancel]

/-- A return resumes at the value saved plus 1, with SP as before the save and MIE as the return gives it. -/
theorem returnWith_of_saved {s u : State} {v : Word} (room : s.callRoom) (hparams : u.params = s.params)
    (hstack : u.callStack = (s.withCallLevel v).callStack) (hsp : u.sp = s.sp + 1) (mie : Bool) :
    ∃ w, returnWith mie u = .next w ∧ w.pc = v + 1 ∧ w.sp = s.sp ∧ w.mie = mie := by
  obtain ⟨level, top, back⟩ := top_of_withCallLevel room hparams hstack hsp
  exact ⟨_, returnWith_level level mie, congrArg (· + 1) top, back, rfl⟩

theorem exec_cal_next {s t : State} {a : BitVec 12} (room : s.callRoom) (h : exec (.cal a) s = .next t) :
    ∃ target, t = { s.withCallLevel s.pc with pc := target } := by
  cases htarget : pageTarget s a with
  | error e => cases (exec_cal_error room htarget).symm.trans h
  | ok w => cases (exec_cal_ok room htarget).symm.trans h; exact ⟨w, rfl⟩

/-- Settles O43: CAL saves its own address and LCAL that of its second word, and the return finds it. -/
theorem callReturnRoundTrip : Obligations.CallReturnRoundTrip := by
  intro s t u room hparams hstack hsp
  refine ⟨fun a call => ?cal, fun a call => ?lcal⟩
  case cal =>
    obtain ⟨target, rfl⟩ := exec_cal_next room call
    obtain ⟨v, hret, hpc, hback, -⟩ := returnWith_of_saved room hparams hstack hsp u.mie
    exact ⟨v, hret, hpc, hback⟩
  case lcal =>
    cases (exec_lcal_room room a).symm.trans call
    obtain ⟨v, hret, hpc, hback, -⟩ := returnWith_of_saved room hparams hstack hsp u.mie
    exact ⟨v, hret, hpc.trans (BitVec.add_assoc s.pc 1 1), hback⟩

/-! ### A return that finds an interrupt entry (R506, R507, R510) -/

/-- A maskable source is accepted only with MIE = 1 (R504). -/
theorem mie_of_acceptedSource {s : State} {src : IrqSource} (h : acceptedSource s = some src)
    (hcls : src.cls = .maskable) : s.mie = true := by
  have he := bestEligible_eligible h
  simpa [eligible, hcls] using (Bool.and_eq_true_iff.1 he).2

@[simp] theorem acknowledge_mieSaved (src : IrqSource) (s : State) : (acknowledge src s).mieSaved = s.mieSaved := by
  unfold acknowledge; split <;> rfl

theorem takeInterrupt_mieSaved {src : IrqSource} {s t : State} (hcls : src.cls = .nonMaskable)
    (h : takeInterrupt src s = .ok t) : t.mieSaved = s.mie := by
  obtain ⟨room, -⟩ := takeInterrupt_ok h
  simp only [takeInterrupt, callPush_room room, hcls, Except.ok.injEq] at h
  rw [← h, acknowledge_mieSaved]

theorem boundary_of_accepted {s : State} {src : IrqSource} (ha : acceptedSource s = some src) :
    boundary s = ofExcept (takeInterrupt src s) := by
  simp only [boundary, ha]

/-- With a source accepted, a step that answers is the entry of that source. -/
theorem takeInterrupt_of_step {s u t : State} {src : IrqSource} (acts : CoreActs s u) (ha : acceptedSource u = some src)
    (h : step s = .next t) : takeInterrupt src u = .ok t := by
  rw [step_of_coreActs acts, boundary_of_accepted ha] at h
  cases htake : takeInterrupt src u with
  | error e => rw [htake] at h; cases h
  | ok v => rw [htake] at h; cases h; rfl

/-- Settles O50: entry saves PC less 1, which either return finds; MIE was 1 at a maskable entry, and is in MIE_SAVED after
a non-maskable one. -/
theorem interruptRoundTrip : Obligations.InterruptRoundTrip := by
  intro s t v src hin ha hstep hparams hstack hsp hsaved
  have entry : takeInterrupt src s = .ok t := takeInterrupt_of_step (.inl ⟨hin, rfl⟩) ha hstep
  have resumes (mie : Bool) : ∃ w, returnWith mie v = .next w ∧ w.pc = s.pc ∧ w.sp = s.sp ∧ w.mie = mie := by
    obtain ⟨room, _, _, _, -, rfl⟩ := takeInterrupt_ok entry
    obtain ⟨w, hret, hpc, hrest⟩ := returnWith_of_saved room hparams hstack hsp mie
    exact ⟨w, hret, hpc.trans (BitVec.sub_add_cancel s.pc 1), hrest⟩
  refine ⟨fun hcls => ?maskable, fun hcls => ?nonMaskable⟩
  case maskable => exact mie_of_acceptedSource ha hcls ▸ resumes true
  case nonMaskable => exact takeInterrupt_mieSaved hcls entry ▸ hsaved ▸ resumes v.mieSaved

end Sys2Proof.Machine
end

section
/-! SUPPORT. The statements of 48_control.md: MOV reg,#i4, INCB, INCW and the control instructions, and which instructions
and events write MIE. -/

namespace Sys2Proof.Machine

/-! ### MOV reg,#i4 (R470) -/

theorem encode_movReg (r : Reg4) (i : Nibble) :
    encode (.movReg r i) = [BitVec.ofNat 16 r.word + i.setWidth 16] := by
  simp only [encode, BitVec.ofNat_add, BitVec.ofNat_toNat]

/-- Settles O44: the word is the register's number plus the immediate, and `setReg4` writes that register alone. -/
theorem registerLoadResult : Obligations.RegisterLoadResult := by
  refine ⟨fun i => ?words, fun _ _ => ?results⟩
  case words => and_intros <;> exact encode_movReg _ i
  case results => and_intros <;> rfl

/-! ### INCB and INCW (R481, R482) -/

theorem ra_toNat (s : State) :
    s.ra.toNat = s.ra3.toNat * 4096 + s.ra2.toNat * 256 + s.ra1.toNat * 16 + s.ra0.toNat := by
  simp only [State.ra, toNat_append_fields]
  omega

/-- A pair passes 0FFH on an increment exactly when both its nibbles are 0FH. -/
theorem pair_carry_iff (hi lo : Nibble) : 0xFF < (hi ++ lo).toNat + 1 ↔ hi = 0xF ∧ lo = 0xF := by
  rw [toNat_append_fields]
  bv_omega

/-- RA becomes 0 on an increment exactly when all its nibbles are 0FH. -/
theorem ra_add_one_eq_zero_iff (s : State) :
    s.ra + 1 = 0 ↔ s.ra3 = 0xF ∧ s.ra2 = 0xF ∧ s.ra1 = 0xF ∧ s.ra0 = 0xF := by
  have hra := ra_toNat s
  bv_omega

/-- An incremented pair is the old one plus 1, modulo 256. -/
theorem incPair_one_toNat (s : State) (p : Pair) :
    ((s.incPair p 1).pairValue p).toNat = ((s.pairValue p).toNat + 1) % 256 := by
  rw [State.incPair_pairValue, BitVec.toNat_add]
  rfl

theorem incbHL_value (s : State) :
    (s.incPair .hl 1).h.toNat * 16 + (s.incPair .hl 1).l.toNat = (s.h.toNat * 16 + s.l.toNat + 1) % 256 := by
  rw [← hlPair_toNat, ← hlPair_toNat]
  exact incPair_one_toNat s .hl

theorem incbXY_value (s : State) :
    (s.incPair .xy 1).x.toNat * 16 + (s.incPair .xy 1).y.toNat = (s.x.toNat * 16 + s.y.toNat + 1) % 256 := by
  rw [← xyPair_toNat, ← xyPair_toNat]
  exact incPair_one_toNat s .xy

theorem incwRA_value (s : State) :
    (s.setRa (s.ra + 1)).ra.toNat
      = (s.ra3.toNat * 4096 + s.ra2.toNat * 256 + s.ra1.toNat * 16 + s.ra0.toNat + 1) % 65536 := by
  rw [State.setRa_ra, BitVec.toNat_add, ra_toNat]
  rfl

/-- Settles O45: each is one increment of the joined nibbles; the carry out of the highest is G. -/
theorem incrementResult : Obligations.IncrementResult := by
  refine ⟨⟨rfl, rfl, rfl⟩, fun s => ⟨⟨_, rfl, rfl, incbHL_value s, ?hl⟩, ⟨_, rfl, rfl, incbXY_value s, ?xy⟩,
    ⟨_, rfl, rfl, (ra_toNat _).symm.trans (incwRA_value s), ?ra⟩⟩⟩
  case hl => exact decide_eq_true_iff.trans (pair_carry_iff s.h s.l)
  case xy => exact decide_eq_true_iff.trans (pair_carry_iff s.x s.y)
  case ra => exact beq_iff_eq.trans (ra_add_one_eq_zero_iff s)

/-! ### NOP, EI, DI, HALT and MSA (R483 to R487) -/

theorem haltCheck_passes {s : State} (h : s.params.haltNopCheck = .ignore
    ∨ ((s.pc + 1).toNat < s.params.pmWords ∧ s.pmPeek (s.pc + 1) = 0x0000#16)) : haltCheck s = .ok () := by
  unfold haltCheck
  split
  case h_1 => rfl
  case h_2 refuse =>
    obtain ignore | ⟨hin, hnop⟩ := h
    · cases refuse.symm.trans ignore
    · simp only [pmRead_inside hin, hnop, if_true]

theorem exec_halt_ok {s : State} (h : haltCheck s = .ok ()) :
    exec .halt s = .next { s with halted := true, pc := s.pc + 1 } := by
  simp only [exec, execHalt, h]

theorem exec_msa_melody {s : State} (h : s.params.hasMelody = true) (a : Word) :
    exec (.msa a) s = .next { s with melodyStart := some a, pc := s.pc + 2 } :=
  if_pos h

/-- Settles O46: NOP, EI and DI always complete; HALT does where its check passes, and MSA where there is a melody
circuit. -/
theorem controlResult : Obligations.ControlResult := fun _ =>
  ⟨rfl, rfl, rfl, fun h => exec_halt_ok (haltCheck_passes h), exec_msa_melody⟩

/-! ### What writes MIE (R488) -/

/-- The instructions that write MIE. -/
theorem exec_mie {i : Instr} {s t : State} (h : exec i s = .next t) (hne : t.mie ≠ s.mie) :
    i = .ei ∨ i = .di ∨ i = .rti ∨ i = .rtnmi := by
  cases exec_effect h with
  | data k => exact absurd k.core.mie hne
  | call | push | melody | halt => exact absurd rfl hne
  | ret hi _ mie hmie =>
    obtain hrt | hrti | hrtnmi := hi
    · exact absurd (hmie hrt) hne
    · exact .inr (.inr (.inl hrti))
    · exact .inr (.inr (.inr hrtnmi))
  | master hi => exact hi.imp_right .inl
  | store _ k => exact absurd k.mie hne

@[simp] theorem haltedBoundary_mie (s : State) : (haltedBoundary s).mie = s.mie := by
  unfold haltedBoundary
  split <;> rfl

/-- Of the events of the outside only a reset writes MIE. -/
theorem applyInput_mie {i : Input} {s : State} (h : i.isReset = false) : (applyInput i s).mie = s.mie := by
  cases i with
  | reset => cases h
  | quiet | request | withdraw | device | external => rfl

theorem mie_of_coreActs {s u : State} (h : CoreActs s u) : u.mie = s.mie := by
  obtain ⟨-, rfl⟩ | ⟨rest, -, rfl⟩ := h <;> rfl

/-- Settles O59: a step is an event of the outside, an interrupt entry, a boundary in halt mode or an instruction, and each
that changes MIE is one of the list. -/
theorem mieWriters : Obligations.MieWriters := by
  refine ⟨fun _ _ _ => exec_mie, fun s t h hne => ?_⟩
  obtain ⟨i, rest, hin, -, rfl⟩ | ⟨u, acts, core⟩ := step_next h
  · cases hreset : i.isReset with
    | true =>
      cases i with
      | reset draw => exact .inl ⟨draw, rest, hin⟩
      | quiet | request | withdraw | device | external => cases hreset
    | false => exact absurd (applyInput_mie hreset) hne
  · rw [← mie_of_coreActs acts] at hne
    refine .inr ⟨u, acts, ?_⟩
    obtain ⟨src, hsrc, -⟩ | ⟨-, -, rfl⟩ | ⟨i, -, -, hfetch, hexec⟩ := core
    · exact .inl ⟨src, hsrc⟩
    · exact absurd (haltedBoundary_mie u) hne
    · exact .inr ⟨i, hfetch, exec_mie hexec hne⟩

end Sys2Proof.Machine
end

section
/-! SUPPORT. The statements of 60_exceptions.md: which source is accepted, what its entry does, and halt mode. -/

namespace Sys2Proof.Machine

/-! ### Acceptance (R504, R508) -/

theorem eligible_iff {s : State} {src : IrqSource} :
    eligible s src = true ↔ src.name ∈ s.requests ∧ (src.cls = .nonMaskable ∨ s.mie = true) := by
  simp only [eligible, Bool.and_eq_true, Bool.or_eq_true, List.contains_iff_mem, beq_iff_eq]

theorem bestEligible_eq_none_iff {s : State} {l : List IrqSource} :
    bestEligible s l = none ↔ ∀ src ∈ l, eligible s src = false := by
  induction l with
  | nil => simp only [bestEligible, List.not_mem_nil, false_implies, implies_true]
  | cons a l ih =>
    rw [List.forall_mem_cons, ← ih, bestEligible]
    cases hb : bestEligible s l with
    | none => cases eligible s a <;> simp only [if_true, if_false, Bool.false_eq_true, reduceCtorEq, and_true]
    | some b =>
      simp only [reduceCtorEq, and_false, iff_false]
      split <;> nofun

/-- No eligible source of a table has a larger priority than the best. -/
theorem priority_le_of_bestEligible {s : State} {l : List IrqSource} {src : IrqSource}
    (h : bestEligible s l = some src) : ∀ other ∈ l, eligible s other = true → other.priority ≤ src.priority := by
  induction l generalizing src with
  | nil => cases h
  | cons a l ih =>
    rw [List.forall_mem_cons]
    unfold bestEligible at h
    split at h
    case h_1 hb =>
      split at h <;> cases h
      exact ⟨fun _ => le_rfl, fun o ho he => by cases (bestEligible_eq_none_iff.1 hb o ho).symm.trans he⟩
    case h_2 b hb =>
      split at h <;> cases h
      case isTrue ha =>
        have hle : b.priority ≤ a.priority := of_decide_eq_true (Bool.and_eq_true_iff.1 ha).2
        exact ⟨fun _ => le_rfl, fun o ho he => (ih hb o ho he).trans hle⟩
      case isFalse ha =>
        refine ⟨fun he => ?_, ih hb⟩
        rw [he, Bool.true_and, decide_eq_true_iff] at ha
        exact (Nat.lt_of_not_le ha).le

/-- Settles O47: the scan of the table keeps the eligible source of largest priority. -/
theorem acceptanceRule : Obligations.AcceptanceRule := by
  refine fun s => ⟨fun src h => ⟨⟨bestEligible_mem h, eligible_iff.1 (bestEligible_eligible h)⟩, ?largest⟩, ?none⟩
  case largest => exact fun other ⟨hmem, hask⟩ => priority_le_of_bestEligible h other hmem (eligible_iff.2 hask)
  case none =>
    refine bestEligible_eq_none_iff.trans (forall_congr' fun src => ?_)
    rw [Bool.eq_false_iff, ne_eq, eligible_iff]
    exact not_and.symm

/-- With no source of the table asking, none is accepted. -/
theorem acceptedSource_of_noneAsks {s : State} (h : ∀ src ∈ s.params.irq, src.name ∉ s.requests) :
    acceptedSource s = none :=
  (acceptanceRule s).2.2 fun src ⟨hmem, hask, _⟩ => h src hmem hask

/-! ### Entry (R506, R507) -/

theorem acknowledge_eq (src : IrqSource) (s : State) :
    acknowledge src s =
      { s with requests := if src.ackClears then s.requests.filter (· != src.name) else s.requests } := by
  unfold acknowledge
  split <;> rfl

theorem takeInterrupt_maskable {s : State} {src : IrqSource} (hcls : src.cls = .maskable) (room : s.callRoom) :
    takeInterrupt src s = .ok { s.withCallLevel (s.pc - 1) with
      mie := false, halted := false, pc := src.vector,
      requests := if src.ackClears then s.requests.filter (· != src.name) else s.requests } := by
  simp only [takeInterrupt, callPush_room room, hcls, acknowledge_eq, State.withCallLevel]

theorem takeInterrupt_nonMaskable {s : State} {src : IrqSource} (hcls : src.cls = .nonMaskable) (room : s.callRoom) :
    takeInterrupt src s = .ok { s.withCallLevel (s.pc - 1) with
      mieSaved := s.mie, mie := if s.params.nmiClearsMie then false else s.mie, halted := false, pc := src.vector,
      requests := if src.ackClears then s.requests.filter (· != src.name) else s.requests } := by
  have hmie : (s.mie && !s.params.nmiClearsMie) = if s.params.nmiClearsMie then false else s.mie := by
    cases s.params.nmiClearsMie <;> simp
  simp only [takeInterrupt, callPush_room room, hcls, acknowledge_eq, State.withCallLevel, hmie]

/-- The step in which a source is accepted is its entry. -/
theorem step_of_accepted {s u : State} {src : IrqSource} (acts : CoreActs s u) (ha : acceptedSource u = some src) :
    step s = ofExcept (takeInterrupt src u) :=
  (step_of_coreActs acts).trans (boundary_of_accepted ha)

/-- Settles O48: with room the entry is a save and a few writes, without it the boundary stops. -/
theorem maskableEntry : Obligations.MaskableEntry := by
  refine fun s u src acts ha hcls => ⟨fun room => ?enters, fun hsp hw => ?stops⟩
  case enters => rw [step_of_accepted acts ha, takeInterrupt_maskable hcls room, ofExcept]
  case stops => exact (step_of_coreActs acts).trans (boundary_full hsp hw (Option.ne_none_iff_exists'.2 ⟨src, ha⟩))

/-- Settles O49: the entry of the other class, which saves MIE before it writes it. -/
theorem nonMaskableEntry : Obligations.NonMaskableEntry := fun s u src acts ha hcls room => by
  rw [step_of_accepted acts ha, takeInterrupt_nonMaskable hcls room, ofExcept]

/-! ### Halt mode (R509) -/

theorem wakesWithoutEntry_iff {s : State} : wakesWithoutEntry s = true ↔
    s.params.haltWakeIgnoresMie = true
      ∧ ∃ src ∈ s.params.irq, src.name ∈ s.requests ∧ src.cls = .maskable := by
  simp only [wakesWithoutEntry, Bool.and_eq_true, List.any_eq_true, List.contains_iff_mem, beq_iff_eq]

theorem boundary_halted {s : State} (hno : acceptedSource s = none) (hhalt : s.halted = true) :
    boundary s = .next (haltedBoundary s) := by
  simp only [boundary, hno, hhalt, if_true]

theorem haltedBoundary_of_noneAsks {s : State} (h : ∀ src ∈ s.params.irq, src.name ∉ s.requests) :
    haltedBoundary s = s :=
  if_neg fun wakes => by
    obtain ⟨-, src, hmem, hask, -⟩ := wakesWithoutEntry_iff.1 wakes
    exact h src hmem hask

/-- Settles O51: a boundary in halt mode ends it or does nothing, and with no source asking it does nothing. -/
theorem haltedStep : Obligations.HaltedStep := by
  refine ⟨fun s u acts hno hhalt => ?boundary, fun s hin hhalt hasks => ⟨hhalt, ?stuck⟩⟩
  case boundary =>
    rw [step_of_coreActs acts, boundary_halted hno hhalt, haltedBoundary]
    simp only [wakesWithoutEntry_iff]
  case stuck =>
    rw [step_of_coreActs (.inl ⟨hin, rfl⟩), boundary_halted (acceptedSource_of_noneAsks hasks) hhalt,
      haltedBoundary_of_noneAsks hasks]

/-! ### The other events of the outside (R503, R505, R106) -/

theorem step_of_event {s : State} {i : Input} {rest : List Input} (hin : s.inputs = i :: rest) (hi : i ≠ .quiet) :
    step s = .next (applyInput i { s with inputs := rest }) := by
  cases i with
  | quiet => exact absurd rfl hi
  | request | withdraw | device | external | reset => simp only [step, hin]

theorem mem_requests_of_request (s : State) (n m : Nat) :
    m ∈ (applyInput (.request n) s).requests ↔ m = n ∨ m ∈ s.requests := by
  simp only [applyInput, List.contains_iff_mem]
  split
  case isTrue h => exact ⟨.inr, fun hm => hm.elim (fun e => e ▸ h) id⟩
  case isFalse => exact List.mem_cons

theorem mem_requests_of_withdraw (s : State) (n m : Nat) :
    m ∈ (applyInput (.withdraw n) s).requests ↔ m ≠ n ∧ m ∈ s.requests := by
  simp only [applyInput, List.mem_filter, bne_iff_ne, and_comm]

/-- A byte of external memory that changes on its own reads as the new byte, and no other byte changes. -/
theorem xmPeek_of_external (s : State) (a : Word) (b : Byte) :
    (Invariant s → (applyInput (.external a b) s).xmPeek a = b)
      ∧ ∀ d, d ≠ a → (applyInput (.external a b) s).xmPeek d = s.xmPeek d :=
  ⟨fun inv => Mem.read_write_same inv.xm, fun _ hd => Mem.read_write_ne (mt BitVec.eq_of_toNat_eq hd)⟩

/-- Settles O54: each event is its own write to the state with the rest of the inputs. -/
theorem outsideEvents : Obligations.OutsideEvents := by
  refine fun s rest => ⟨fun n hin => ?request, fun n hin => ?withdraw, fun d hin => ?device, fun a b hin => ?external⟩
  case request => exact ⟨_, step_of_event hin nofun, mem_requests_of_request _ n⟩
  case withdraw => exact ⟨_, step_of_event hin nofun, mem_requests_of_withdraw _ n⟩
  case device => exact step_of_event hin nofun
  case external =>
    obtain ⟨same, other⟩ := xmPeek_of_external { s with inputs := rest } a b
    exact ⟨_, step_of_event hin nofun, rfl, fun inv => same ⟨inv.pm, inv.dm, inv.xm, inv.params, inv.requests⟩, other⟩

end Sys2Proof.Machine
end

section
/-! SUPPORT. The statements of 70_reset_and_hazards.md: the state after reset, a reset from outside, and the ways a run
ends. -/

namespace Sys2Proof.Machine

/-! ### The state after reset (R542) -/

/-- Every address of Table 1-2 is that of its register. -/
theorem eq_addr_of_coreRange {a : DataAddr} (hlo : 0x0F2 ≤ a.toNat) (hhi : a.toNat ≤ 0x0FF) :
    ∃ r : CoreReg, a = r.addr := by
  obtain hram | hperiph | ⟨r, hreg⟩ := dmCell_cases a
  · have := (dmCell_eq_ram_iff a).1 hram
    omega
  · have : a.toNat < 0x0F2 := of_decide_eq_true ((dmCell_eq_periph_iff a).1 hperiph)
    omega
  · exact ⟨r, dmCell_reg hreg⟩

/-- Settles O52: the registers are read off the reset state; 0F8H and 0FFH have reserved bits that read 1. -/
theorem resetValues : Obligations.ResetValues := by
  refine ⟨rfl, rfl, rfl, rfl, rfl, rfl, rfl, rfl, rfl, rfl, rfl, rfl, rfl, rfl, rfl, rfl, rfl, rfl, ?registers, ?levels⟩
  case registers =>
    intro a hlo hhi
    obtain ⟨r, rfl⟩ := eq_addr_of_coreRange hlo hhi
    cases r <;> rfl
  case levels => exact fun i => Vector.getElem_replicate i.isLt

/-- Settles O57: the memories are empty, the parameters the defaults, and no source asks. -/
theorem invariantAtReset : Obligations.InvariantAtReset where
  pm := rfl
  dm := rfl
  xm := rfl
  params := by decide
  requests := List.nodup_nil

/-! ### A reset from outside (R540, R543) -/

/-- The draws of a reset leave every address that none of them writes as it was. -/
theorem read_drawRam_of_notDrawn (l : List (DataAddr × Nibble)) (dm : Mem Nibble) {a : Nat}
    (h : ∀ p ∈ l, dmCell p.1 = .ram → a ≠ p.1.toNat) : Mem.read dmFill (drawRam dm l) a = Mem.read dmFill dm a := by
  induction l generalizing dm with
  | nil => rfl
  | cons p l ih =>
    obtain ⟨hp, hl⟩ := List.forall_mem_cons.1 h
    rw [drawRam, ih _ hl]
    split
    case isTrue hram => exact Mem.read_write_ne (hp hram)
    case isFalse => rfl

/-- Settles O53: the reset is the reset state with the outside's items put in; RAM holds the last draw at each address. -/
theorem externalReset : Obligations.ExternalReset := by
  refine fun s draw rest hin => ⟨_, step_of_event hin nofun, rfl, fun a ha => ?kept, fun a v inv hram hv => ?drawn⟩
  case kept =>
    refine read_drawRam_of_notDrawn draw.ram s.dm fun p hp hram heq => ?_
    obtain hnot | hlow := ha
    · exact hnot (List.mem_map.2 ⟨p, hp, (BitVec.eq_of_toNat_eq heq).symm⟩)
    · have := (dmCell_eq_ram_iff p.1).1 hram
      omega
  case drawn => exact (read_drawRam draw.ram inv.dm hram).trans (by rw [hv, Option.getD_some])

/-! ### Every step has a meaning (R541) -/

/-- The outcome is a next state or a stop of R501. -/
def Modelled (r : Host.Outcome State Fault Refusal) : Prop := ∀ reason, r ≠ .refused reason

section
variable {s : State}

theorem modelled_next (t : State) : Modelled (.next t) := nofun

theorem modelled_ofExcept (r : Except Fault State) : Modelled (ofExcept r) := by
  cases r <;> nofun

theorem modelled_nibbleOp (reads : Bool) (o : Obj) (f : Nibble → Effect) : Modelled (nibbleOp reads o f s) := by
  unfold nibbleOp
  split <;> nofun

theorem modelled_byteLoad (o : Ind) (src : Except Fault Byte) (len : Word) : Modelled (byteLoad o src len s) := by
  unfold byteLoad
  repeat (split; nofun)
  nofun

theorem modelled_byteStore (o : Ind) (dst len : Word) : Modelled (byteStore o dst len s) := by
  unfold byteStore
  repeat (split; nofun)
  nofun

theorem modelled_pushFrame (f : Frame) : Modelled (pushFrame f s) := by
  unfold pushFrame
  split <;> nofun

theorem modelled_popHL : Modelled (execPopHL s) := by
  unfold execPopHL
  split <;> nofun

theorem modelled_popXY : Modelled (execPopXY s) := by
  unfold execPopXY
  split <;> nofun

theorem modelled_jmp (a : BitVec 12) : Modelled (execJmp a s) := by
  unfold execJmp
  split <;> nofun

theorem modelled_cal (a : BitVec 12) : Modelled (execCal a s) := by
  unfold execCal
  repeat (split; nofun)
  nofun

theorem modelled_lcal (a : Word) : Modelled (execLcal a s) := by
  unfold execLcal
  split <;> nofun

theorem modelled_returnWith (mie : Bool) : Modelled (returnWith mie s) := by
  unfold returnWith
  split <;> nofun

theorem modelled_msa (a : Word) : Modelled (execMsa a s) := by
  unfold execMsa
  split <;> nofun

theorem modelled_halt : Modelled (execHalt s) := by
  unfold execHalt
  split <;> nofun

theorem modelled_exec (i : Instr) : Modelled (exec i s) := by
  cases i with
  | movObjA | movAObj | movObjImm | xch | rol | ror | inc | dec
  | addA | addImm | adc | adcd | adcj | subA | subImm | sbc | sbcd | sbcj
  | cmpA | cmpImm | andA | andImm | orA | orImm | xorA | xorImm
  | mclr | mset | mnot | mtstA | mtstImm | mmov | bclr | bset | bnot | btst | bmov => exact modelled_nibbleOp _ _ _
  | movhbRA | movhbAbs | movlbRA | movlbAbs | movxbLoadRA | movxbLoadAbs => exact modelled_byteLoad _ _ _
  | movxbStoreRA | movxbStoreAbs => exact modelled_byteStore _ _ _
  | pushHL | pushXY => exact modelled_pushFrame _
  | popHL => exact modelled_popHL
  | popXY => exact modelled_popXY
  | jmp a => exact modelled_jmp a
  | cal a => exact modelled_cal a
  | lcal a => exact modelled_lcal a
  | rt | rti | rtnmi => exact modelled_returnWith _
  | msa a => exact modelled_msa a
  | halt => exact modelled_halt
  | movAImm | movReg | incbHL | incbXY | incwRA
  | fclrC | fclrZ | fclrG | fclrFlag | fsetC | fsetZ | fsetG | fsetFlag
  | ljmp | sjmp | jmpPcA | bc | blt | bnc | bge | bz | beq | bnz | bne | ble | bgt | bng
  | nop | ei | di => exact modelled_next _

theorem modelled_boundary : Modelled (boundary s) := by
  unfold boundary runInstr
  split
  · exact modelled_ofExcept _
  · split
    · exact modelled_next _
    · split
      · nofun
      · exact modelled_exec _

theorem modelled_step : Modelled (step s) := by
  unfold step
  split
  · exact modelled_boundary
  · exact modelled_boundary
  · exact modelled_next _

end

/-! ### Runs with a budget (R541) -/

theorem afterSteps_succ {s t : State} (h : step s = .next t) (k : Nat) : afterSteps (k + 1) s = afterSteps k t := by
  simp only [afterSteps, h]

/-- What the end of a run from `s` with budget `n` owes: the state it reports is reached within the budget, and a stop is
raised there, `Halted` is terminal, `StillRunning` is neither and has used the budget up. -/
def RunEnd.Accounted (n : Nat) (s : State) : RunEnd → Prop
  | .stopped f u => ∃ k, k < n ∧ afterSteps k s = some u ∧ step u = .fault f
  | .halted u => (∃ k, k ≤ n ∧ afterSteps k s = some u) ∧ u.isTerminal = true
  | .stillRunning u => afterSteps n s = some u ∧ u.isTerminal = false
  | .unmodelled _ _ => False

/-- An end accounted for after one step is accounted for before it, with one more step of budget. -/
theorem RunEnd.Accounted.of_step {n : Nat} {s t : State} {e : RunEnd} (hstep : step s = .next t) (h : e.Accounted n t) :
    e.Accounted (n + 1) s := by
  cases e with
  | stopped f u =>
    obtain ⟨k, hk, hreach, hfault⟩ := h
    exact ⟨k + 1, Nat.succ_lt_succ hk, (afterSteps_succ hstep k).trans hreach, hfault⟩
  | halted u =>
    obtain ⟨⟨k, hk, hreach⟩, hterm⟩ := h
    exact ⟨⟨k + 1, Nat.succ_le_succ hk, (afterSteps_succ hstep k).trans hreach⟩, hterm⟩
  | stillRunning u => exact h.imp_left (afterSteps_succ hstep n).trans
  | unmodelled r u => exact h

theorem runFor_of_terminal {s : State} (h : s.isTerminal = true) (n : Nat) : runFor n s = .halted s := by
  cases n <;> exact if_pos h

theorem runFor_of_step {s t : State} (h : s.isTerminal = false) (hstep : step s = .next t) (n : Nat) :
    runFor (n + 1) s = runFor n t := by
  simp only [runFor, h, Bool.false_eq_true, if_false, hstep]

theorem runFor_accounted (n : Nat) (s : State) : (runFor n s).Accounted n s := by
  induction n generalizing s with
  | zero =>
    unfold runFor
    split
    case isTrue h => exact ⟨⟨0, le_rfl, rfl⟩, h⟩
    case isFalse h => exact ⟨rfl, Bool.eq_false_iff.2 h⟩
  | succ n ih =>
    cases hterm : s.isTerminal with
    | true => exact runFor_of_terminal hterm _ ▸ ⟨⟨0, Nat.zero_le _, rfl⟩, hterm⟩
    | false =>
      cases hstep : step s with
      | next t => exact runFor_of_step hterm hstep n ▸ (ih t).of_step hstep
      | fault f =>
        have hrun : runFor (n + 1) s = .stopped f s := by
          simp only [runFor, hterm, Bool.false_eq_true, if_false, hstep]
        exact hrun ▸ ⟨0, Nat.succ_pos n, rfl, hstep⟩
      | refused r => exact absurd hstep (modelled_step r)

/-- Halt mode with nothing that could end it goes on for ever, nothing of the core changing. -/
theorem afterSteps_terminal {s : State} (h : s.isTerminal = true) (k : Nat) :
    ∃ t, afterSteps k s = some t
      ∧ t = { s with inputs := t.inputs, requests := t.requests, dev := t.dev, xm := t.xm } := by
  induction k generalizing s with
  | zero => exact ⟨s, rfl, rfl⟩
  | succ k ih =>
    obtain ⟨u, hstep, hterm, i, q, d, x, rfl⟩ := step_terminal h
    obtain ⟨t, hreach, ht⟩ := ih hterm
    exact ⟨t, (afterSteps_succ hstep k).trans hreach, ht⟩

/-! ### Two programs: HALT before a NOP, and the loop SJMP -1 (R434, R484, R541) -/

theorem isTerminal_of_running {s : State} (h : s.halted = false) : s.isTerminal = false := by
  simp only [State.isTerminal, h, Bool.false_and]

/-- A halted core with no input waiting and no source asking is at its end. -/
theorem isTerminal_of_noneAsks {s : State} (hin : s.inputs = []) (hhalt : s.halted = true)
    (hasks : ∀ src ∈ s.params.irq, src.name ∉ s.requests) : s.isTerminal = true := by
  refine isTerminal_iff.2 ⟨hhalt, ?resets, fun src hmem _ => ?asks⟩
  case resets => rw [hin]; nofun
  case asks =>
    simp only [asksEver, hin, Bool.or_eq_false_iff, List.contains_eq_mem, decide_eq_false_iff_not]
    exact ⟨hasks src hmem, List.not_mem_nil⟩

/-- With no input waiting, no source asking and the core running, a one-word instruction at PC is the step. -/
theorem step_of_word {s : State} {i : Instr} {w : Word} (hin : s.inputs = []) (hrun : s.halted = false)
    (hasks : ∀ src ∈ s.params.irq, src.name ∉ s.requests) (hpc : s.pc.toNat < s.params.pmWords)
    (hword : s.pmPeek s.pc = w) (hone : i.words = 1) (hdec : ∀ core x, decode core w x = .ok i) :
    step s = exec i s := by
  have hfetch : fetch s = .ok i :=
    fetch_of_decode hpc (fun htwo => absurd (hone.symm.trans htwo) (by decide)) (hword ▸ hdec _ _)
  exact (step_of_coreActs (.inl ⟨hin, rfl⟩)).trans (boundary_of_fetch (acceptedSource_of_noneAsks hasks) hrun hfetch)

/-- SJMP -1 jumps to itself and changes nothing. -/
theorem exec_sjmp_self (s : State) : exec (.sjmp 0xFF) s = .next s := by
  have hback : relTarget s.pc 0xFF = s.pc := add_neg_cancel_right s.pc 1
  simp only [exec, execSjmp, hback, State.setPc]

theorem runFor_of_self {s : State} (hterm : s.isTerminal = false) (hstep : step s = .next s) (n : Nat) :
    runFor n s = .stillRunning s := by
  induction n with
  | zero => simp only [runFor, hterm, Bool.false_eq_true, if_false]
  | succ n ih => exact (runFor_of_step hterm hstep n).trans ih

/-- Settles O55: every end is accounted for, by induction on the budget; a terminal state stays so; the two programs are one
step into halt mode and a step that gives the same state. -/
theorem runEnds : Obligations.RunEnds := by
  refine ⟨fun n s => ?ends, fun n s hin hrun hasks hpc => ⟨fun hnext hword hnop => ?halt, fun hword => ?loop⟩⟩
  case ends =>
    have key := runFor_accounted n s
    refine ⟨fun r u h => ?unmodelled, fun f u h => ?stopped, fun u h => ?halted, fun u h => ?running⟩ <;> rw [h] at key
    case unmodelled => exact key
    case stopped => exact key
    case halted =>
      obtain ⟨reached, hterm⟩ := key
      exact ⟨reached, (isTerminal_iff.1 hterm).1, afterSteps_terminal hterm⟩
    case running => exact key
  case halt =>
    have hdec (core : CoreKind) (x : Word) : decode core 0x0001 x = .ok .halt :=
      decodeOfEncode core .halt (by cases core <;> rfl) x 0x0001 [] rfl
    have hstep := (step_of_word hin hrun hasks hpc hword rfl hdec).trans
      (exec_halt_ok (haltCheck_passes (.inr ⟨hnext, hnop⟩)))
    rw [runFor_of_step (isTerminal_of_running hrun) hstep]
    exact runFor_of_terminal (isTerminal_of_noneAsks (s := { s with halted := true, pc := s.pc + 1 }) hin rfl hasks) n
  case loop =>
    have hdec (core : CoreKind) (x : Word) : decode core 0x09FF x = .ok (.sjmp 0xFF) :=
      decodeOfEncode core (.sjmp 0xFF) (by cases core <;> rfl) x 0x09FF [] rfl
    have hstep := (step_of_word hin hrun hasks hpc hword rfl hdec).trans (exec_sjmp_self s)
    exact runFor_of_self (isTerminal_of_running hrun) hstep n

end Sys2Proof.Machine
end
